-- ==== Sys2Proof/Word.lean ====
section
/-! DEFINITION. The widths of the RBFC: bytes of the buffers and 32-bit registers (spec/10_state.md R20). -/

namespace Sys2Proof

/-- A buffer element, one 8-bit byte (R20). -/
abbrev Byte := BitVec 8

/-- A register or a bus data word, 32 bits (R20). -/
abbrev Word := BitVec 32

/-- An opcode, the field CMD[3:0] (R80). -/
abbrev Opcode := BitVec 4

end Sys2Proof
end

