-- ==== Sys2Proof/Config.lean ====
section
/-! DEFINITION. What an implementation fixes (the elaboration parameters of spec/00_scope.md R5) and the free
values: the uninterpreted constants for what the spec leaves ANY (R8). Nothing can be proved of a free value. -/

namespace Sys2Proof

/-- The pair (ToRadix, FromRadix) of R104 and R105, or any other that R5 allows in its place. -/
structure RadixPair where
  toRadix : List Byte → List Nat
  fromRadix : List Nat → List Byte

/-- The laws that R106 requires of the pair in base `base`. Its law (b), that FromRadix is total on digit lists, holds of
every Lean function. -/
structure RadixPair.Lawful (base : Nat) (c : RadixPair) : Prop where
  digits_lt : ∀ t, ∀ x ∈ c.toRadix t, x < base
  round_trip : ∀ t, c.fromRadix (c.toRadix t) = t

/-- Which pair RADIX_CODEC is: the default one, or the substitute with a number. The pair itself, being two functions, is
no plain data: `Config.substitutePair` holds those that parameters can name, and any pair can be given to the machine as
an argument, `stepWith` of Machine/Engine.lean (log 4). -/
inductive RadixCodec where
  | sentinel
  | substitute (id : Nat)
deriving DecidableEq, Repr

/-- The elaboration parameters of R5. `irqLine` and `irqPriority` are the two parts of IRQ_LINE (R186). -/
structure Params where
  unitBase : Nat
  inCap : Nat
  outCap : Nat
  reserved : List Byte
  codec : RadixCodec
  irqLine : Nat
  irqPriority : Nat
deriving DecidableEq, Repr

/-- The defaults of R5. UNIT_BASE and IRQ_LINE are OPEN in the spec: the zeros are a DESIGN CHOICE (log 3), unsafe for
a claim about one base address or one line; no rule depends on them (U7, U8). -/
def Params.default : Params where
  unitBase := 0
  inCap := 4096
  outCap := 4352
  reserved := [0x00#8, 0x0D#8, 0x0A#8, 0xFF#8]
  codec := .sentinel
  irqLine := 0
  irqPriority := 0

/-- A byte IN[k] that nothing has written since the hardware reset of draw `draw` (R42, R67, U3; log 5). -/
opaque Config.freeInByte : (draw k : Nat) → Byte

/-- A byte OUT[k] that the event of draw `draw` left ANY (R100, R211, R212, R42, U2; log 6). -/
opaque Config.freeOutByte : (draw k : Nat) → Byte

/-- What the read of draw `draw` returns for a result location while the ENGINE is BUSY (R39, U1; log 7). -/
opaque Config.freeBusyRead : (draw : Nat) → Word

/-- The substitute with a number in base B, if there is one: only a pair that meets the laws of R106 can stand here
(R5, R106; log 4). -/
opaque Config.substitutePair : (id base : Nat) → Option {c : RadixPair // c.Lawful base}

end Sys2Proof
end

