-- ==== Sys2Proof/Syntax.lean ====
section
/-! DEFINITION. The commands of the RBFC: one constructor for each row of spec/opcode_table.json
(spec/30_encoding.md R82). Operands are implicit (R81), so only the reserved row carries a field: its opcode. -/

namespace Sys2Proof

/-- The commands of R82. `reserved op` is the row of the opcodes 0x8 to 0xF (R83, R166). -/
inductive Instr where
  | nop
  | crc32
  | frame
  | deframe
  | u32pack
  | u32unpack
  | netsum
  | netsumPh
  | reserved (op : Opcode)
deriving DecidableEq, Repr

end Sys2Proof
end

