-- ==== Sys2Proof/WellFormed.lean ====
section
/-! DEFINITION. Well-formedness of a command (spec/30_encoding.md R82) and of the elaboration parameters
(spec/00_scope.md R5, R6). -/

namespace Sys2Proof

/-- A command is well formed when its opcode belongs to its row: the reserved row holds 0x8 to 0xF (R82, R83). -/
def Instr.wf : Instr → Bool
  | .nop => true
  | .crc32 => true
  | .frame => true
  | .deframe => true
  | .u32pack => true
  | .u32unpack => true
  | .netsum => true
  | .netsumPh => true
  | .reserved op => decide (8 ≤ op.toNat)

/-- The substitutes B + i of the reserved values r_i below B (R6 item 4, R107), from index `i` on. -/
def substitutes (base : Nat) : (i : Nat) → List Byte → List Byte
  | _, [] => []
  | i, r :: rs => if r.toNat < base then BitVec.ofNat 8 (base + i) :: substitutes base (i + 1) rs else substitutes base (i + 1) rs

/-- R6: between one and four reserved values, distinct, 0x0D among them, and no substitute reserved. -/
def reservedWf (rs : List Byte) : Bool :=
  decide (1 ≤ rs.length) && decide (rs.length ≤ 4) && decide rs.Nodup && rs.contains 0x0D#8 &&
    (substitutes (256 - rs.length) 0 rs).all (fun b => !rs.contains b)

/-- R5, R106: RADIX_CODEC is the default pair or names a substitute that meets the laws in the base of `p`. -/
def codecWf (p : Params) : Bool :=
  match p.codec with
  | .sentinel => true
  | .substitute id => (Config.substitutePair id (256 - p.reserved.length)).isSome

/-- R5 and R6: every elaboration parameter has a legal value. -/
def Params.wf (p : Params) : Bool :=
  decide (p.unitBase % 0x10000 = 0) && decide (4 ≤ p.inCap) && decide (p.inCap ≤ 16384) &&
    decide (6 ≤ p.outCap) && decide (p.outCap ≤ 16384) && reservedWf p.reserved && codecWf p

end Sys2Proof
end

