-- ==== Sys2Proof/Decode.lean ====
section
/-! DEFINITION. Decoding and encoding of the command word (spec/30_encoding.md R80, R82), and the two readings of the
opcode table that the host asks for. -/

namespace Sys2Proof

/-- Why bytes are no command: fewer than the four bytes of the one 32-bit command word (R80). -/
inductive DecodeError where
  | tooFewBytes (have_ : Nat)
deriving DecidableEq, Repr

/-- The row of R82 that an opcode selects; total over the 16 values (R162). -/
def decodeOpcode (op : Opcode) : Instr :=
  match op.toNat with
  | 0x0 => .nop
  | 0x1 => .crc32
  | 0x2 => .frame
  | 0x3 => .deframe
  | 0x4 => .u32pack
  | 0x5 => .u32unpack
  | 0x6 => .netsum
  | 0x7 => .netsumPh
  | _ => .reserved op

/-- The field OP = CMD[3:0] of a command word; IGN = CMD[31:4] is dropped (R80). -/
def opField (w : Word) : Opcode := w.extractLsb' 0 4

/-- The command that a command word selects (R82). -/
def decodeWord (w : Word) : Instr := decodeOpcode (opField w)

/-- A bus data word from its four byte lanes, the lowest lane first (R64). -/
def wordOfLanes (b0 b1 b2 b3 : Byte) : Word := b3 ++ b2 ++ b1 ++ b0

/-- The four byte lanes of a bus data word, the lowest lane first (R64). -/
def lanesOfWord (w : Word) : List Byte :=
  [w.extractLsb' 0 8, w.extractLsb' 8 8, w.extractLsb' 16 8, w.extractLsb' 24 8]

/-- The command at the head of a byte string and the bytes after it, lanes lowest first (log 17). Every command is one
32-bit word (R80), so only a string of fewer than four bytes is refused. -/
def decode : List Byte → Except DecodeError (Instr × List Byte)
  | b0 :: b1 :: b2 :: b3 :: rest => .ok (decodeWord (wordOfLanes b0 b1 b2 b3), rest)
  | short => .error (.tooFewBytes short.length)

/-- The opcode of a command (R82). -/
def opcodeOf : Instr → Opcode
  | .nop => 0x0#4
  | .crc32 => 0x1#4
  | .frame => 0x2#4
  | .deframe => 0x3#4
  | .u32pack => 0x4#4
  | .u32unpack => 0x5#4
  | .netsum => 0x6#4
  | .netsumPh => 0x7#4
  | .reserved op => op

/-- The command word with IGN given (R80). -/
def encodeWith (ign : BitVec 28) (i : Instr) : Word := ign ++ opcodeOf i

/-- The command word the host notation writes for a command: IGN = 0 (R86 `ISSUE`). -/
def encodeWord (i : Instr) : Word := encodeWith 0#28 i

/-- The bytes of the command word, the lowest lane first. -/
def encode (i : Instr) : List Byte := lanesOfWord (encodeWord i)

/-- The command the decoder reads from an opcode-table word of `nbits` bits, every bit above them zero. -/
def decodeTableWord (nbits w : Nat) : Option Instr :=
  if nbits ≤ 32 then
    match decode (lanesOfWord (BitVec.ofNat 32 (w % 2 ^ nbits))) with
    | .ok (i, _) => some i
    | .error _ => none
  else none

/-- The mask of a command's row in spec/opcode_table.json. -/
def rowMask : Instr → Word
  | .reserved _ => 0x00000008#32
  | _ => 0x0000000F#32

/-- The match value of a command's row in spec/opcode_table.json. -/
def rowMatch : Instr → Word
  | .nop => 0x00000000#32
  | .crc32 => 0x00000001#32
  | .frame => 0x00000002#32
  | .deframe => 0x00000003#32
  | .u32pack => 0x00000004#32
  | .u32unpack => 0x00000005#32
  | .netsum => 0x00000006#32
  | .netsumPh => 0x00000007#32
  | .reserved _ => 0x00000008#32

end Sys2Proof
end

