-- ==== Sys2Proof/Machine/State.lean ====
section
/-! DEFINITION. The state of the RBFC (spec/10_state.md), the events that act on it (spec/00_scope.md R9), the answers
of its slave port (spec/20_memory.md R60) and the state after a hardware reset (R42). -/

namespace Sys2Proof.Machine

/-- The size of a bus access: 1, 2 or 4 bytes (R8, R60). -/
inductive Size where
  | one
  | two
  | four
deriving DecidableEq, Repr

/-- One event of the run, in the total order of R68, R187 and R213. Addresses are bus addresses (R60). -/
inductive Input where
  /-- A HOST bus read (R8 `MemRead`). -/
  | read (addr : Nat) (size : Size)
  /-- A HOST bus write (R8 `MemWrite`); a write of fewer than four bytes uses the low lanes of `value`. -/
  | write (addr : Nat) (size : Size) (value : Word)
  /-- The reset input, as one atomic event (R210, R213). -/
  | hardReset
  /-- The moment the schedule gives the ENGINE (R162, R167, U10); it completes its command if it is BUSY. -/
  | complete
deriving DecidableEq, Repr

/-- What the slave port answered to the latest host access (R60). -/
inductive Response where
  /-- No access has been answered since the hardware reset. -/
  | none
  /-- A read's data, zero-extended to 32 bits. -/
  | data (value : Word)
  /-- A write was accepted, whether it stored, was ignored (R66) or was dropped (R76). -/
  | accepted
  /-- The slave error response `BusError(off)` (R184). -/
  | busError (off : Nat)
deriving DecidableEq, Repr

/-- The error code a command ends with (R181). -/
inductive ErrCode where
  | ok
  | tooShort
  | badChecksum
  | badOp
  | lenRange
  | outOverflow
deriving DecidableEq, Repr

/-- A byte buffer: the bytes that hold a known value, by index, addresses strictly rising. An index that is not listed
has no value in the list; what it then reads as is said once, in `inByte` and `outByte` of Machine/Ops.lean. -/
abbrev Memory := List Host.Cell

/-- Why the model stops with a fault. -/
inductive Fault where
  /-- Raised by `step` when an input access names a bus address outside the 64 KiB window that the port decodes (R60):
  the spec gives the unit no part in it. Safe: the model stops where the platform serves another device (log 10). -/
  | outsideWindow (addr : Nat)
deriving DecidableEq, Repr

/-- Why the model refuses. -/
inductive Refusal where
  /-- Raised by an arm of `exec` for a command with no meaning yet. Safe. No arm raises it. -/
  | notModelled (mnemonic : String)
  /-- Raised by `elaborate` for parameters that fail R5 or R6; the spec refuses them at elaboration (U5, U6). Safe. -/
  | illFormedParams
deriving DecidableEq, Repr

/-- The state of the unit. The fields from `inputs` on are the model's own (log 1, 2, 8, 9). -/
structure State where
  /-- The elaboration parameters (R5); no event changes them. -/
  params : Params
  /-- CTRL.IRQ_EN (R23). -/
  irqEn : Bool
  /-- STATUS.BUSY, and so the ENGINE state: IDLE is `false`, BUSY is `true` (R25, R38). -/
  busy : Bool
  /-- STATUS.DONE (R25). -/
  done : Bool
  /-- STATUS.ERRCODE (R25, R181). -/
  errcode : BitVec 4
  /-- STATUS.WERR (R25, R185). -/
  werr : Bool
  /-- LAST_OP (R37). -/
  lastOp : Opcode
  /-- IN_LEN[15:0] (R28). -/
  inLen : BitVec 16
  /-- OUT_LEN[15:0] (R29). -/
  outLen : BitVec 16
  /-- RESULT (R30). -/
  result : Word
  /-- RESULT1 (R31). -/
  result1 : Word
  /-- ARG0 (R32). -/
  arg0 : Word
  /-- ARG1 (R32). -/
  arg1 : Word
  /-- ARG2 (R32). -/
  arg2 : Word
  /-- The IN bytes that have been written since the hardware reset, by index (R34, R67). -/
  inBuf : Memory
  /-- The OUT bytes that hold a specified value, by index (R34, R100). -/
  outBuf : Memory
  /-- The events still to come. -/
  inputs : List Input
  /-- The port's answer to the latest host access. -/
  response : Response
  /-- The number of free draws taken. -/
  draws : Nat
  /-- The draw the unwritten IN bytes come from. -/
  inDraw : Nat
  /-- The draw the unspecified OUT bytes come from. -/
  outDraw : Nat
deriving DecidableEq, Repr

/-- The state right after a hardware reset of a unit elaborated with `p` (R42, R210), with no event to come. The draw
counters are the model's (DESIGN CHOICE, log 8). -/
def State.resetWith (p : Params) : State where
  params := p
  irqEn := false
  busy := false
  done := false
  errcode := 0#4
  werr := false
  lastOp := 0#4
  inLen := 0#16
  outLen := 0#16
  result := 0#32
  result1 := 0#32
  arg0 := 0#32
  arg1 := 0#32
  arg2 := 0#32
  inBuf := []
  outBuf := []
  inputs := []
  response := .none
  draws := 1
  inDraw := 0
  outDraw := 0

/-- The state right after a hardware reset of the unit with the default parameters (R5, R42). -/
def State.reset : State := State.resetWith Params.default

/-- Elaboration: an ill-formed parameter set is refused (R5, R6, U5, U6), any other gives the unit at reset. -/
def elaborate (p : Params) : Host.Outcome State Fault Refusal :=
  if p.wf then .next (State.resetWith p) else .refused .illFormedParams

end Sys2Proof.Machine
end

