-- ==== Sys2Proof/Machine/Flags.lean ====
section
/-! DEFINITION. The flags of the RBFC: the STATUS word and its write-1-to-clear bits, the error codes and the interrupt
output (spec/10_state.md R25, R26, R40, R41; spec/60_exceptions.md R181, R186). -/

namespace Sys2Proof.Machine

/-- The number of an error code (R181). -/
def errBits : ErrCode → BitVec 4
  | .ok => 0#4
  | .tooShort => 1#4
  | .badChecksum => 2#4
  | .badOp => 3#4
  | .lenRange => 4#4
  | .outOverflow => 5#4

/-- A one-bit field as a number. -/
def flagBit (b : Bool) : Word := if b then 1#32 else 0#32

/-- STATUS.ERR, which reads 1 exactly when ERRCODE is not 0 and is no storage of its own (R25). -/
def errFlag (s : State) : Bool := s.errcode != 0#4

/-- What a read of STATUS returns (R26). -/
def statusWord (s : State) : Word :=
  (flagBit s.werr <<< 8) ||| ((s.errcode.setWidth 32) <<< 4) ||| (flagBit (errFlag s) <<< 2) |||
    (flagBit s.done <<< 1) ||| flagBit s.busy

/-- A write of `v` to STATUS: bit 1 clears DONE, bit 8 clears WERR, the rest is ignored (R26). -/
def writeStatus (s : State) (v : Word) : State :=
  { s with done := s.done && !v.getLsbD 1, werr := s.werr && !v.getLsbD 8 }

/-- The output signal irq = CTRL.IRQ_EN and STATUS.DONE, level-sensitive, active high (R40, R186). -/
def irq (s : State) : Bool := s.irqEn && s.done

/-- What the unit drives towards the host: the interrupt input and its priority (IRQ_LINE, R5) and the level (R186). -/
def irqDrive (s : State) : Nat × Nat × Bool := (s.params.irqLine, s.params.irqPriority, irq s)

/-- A locked write dropped because the ENGINE is BUSY: nothing changes but WERR (R76, R185). -/
def dropLockedWrite (s : State) : State := { s with werr := true }

end Sys2Proof.Machine
end

