-- ==== Sys2Proof/Machine/Ops.lean ====
section
/-! DEFINITION. The named operations over the buffers, the completion bookkeeping that every command ends in (the
RBFC's only "entry", spec/60_exceptions.md R188), command issue and the two resets. -/

namespace Sys2Proof.Machine

/-- The canonical form of a buffer: indices strictly rising, so that equal buffers are equal lists. -/
def Memory.wf (m : Memory) : Bool := decide (m.Pairwise fun x y => x.1 < y.1)

/-- The listed byte at an index, if there is one. -/
def memRead : Memory → Nat → Option Byte
  | [], _ => none
  | (a, b) :: m, k => if k = a then some b else memRead m k

/-- Store a byte at an index, keeping the indices strictly rising. -/
def memWrite : Memory → Nat → Byte → Memory
  | [], k, v => [(k, v)]
  | (a, b) :: m, k, v =>
    if k < a then (k, v) :: (a, b) :: m
    else if k = a then (k, v) :: m
    else (a, b) :: memWrite m k v

/-- The buffer that lists a byte string from index `k` on. -/
def memOfBytes : (k : Nat) → List Byte → Memory
  | _, [] => []
  | k, b :: bs => (k, b) :: memOfBytes (k + 1) bs

/-- IN[k]: the byte last stored there, or a free value if nothing has written it since the hardware reset
(R67, U3; log 5). -/
def inByte (s : State) (k : Nat) : Byte := (memRead s.inBuf k).getD (Config.freeInByte s.inDraw k)

/-- OUT[k]: the byte the last command left there, or a free value where the spec leaves it ANY (R34, R100; log 6). -/
def outByte (s : State) (k : Nat) : Byte := (memRead s.outBuf k).getD (Config.freeOutByte s.outDraw k)

/-- `OUT[0 .. len(w)) <- w; OUT[len(w) .. OUT_CAP) <- ANY` (R100, R116 to R118): the bytes outside `w` come from a
fresh draw. -/
def writeOut (s : State) (w : List Byte) : State :=
  { s with outBuf := memOfBytes 0 w, outDraw := s.draws, draws := s.draws + 1 }

/-- `OUT[*] <- ANY` (R100, R116, R117, R211). -/
def freeOut (s : State) : State := writeOut s []

/-- The completion bookkeeping with the code the command ended with (R163): the code, BUSY to IDLE, DONE. -/
def complete (s : State) (c : ErrCode) : State :=
  { s with errcode := errBits c, busy := false, done := true }

/-- A command's end on success (R162: "0 on success"). -/
def succeed (s : State) : Host.Outcome State Fault Refusal := .next (complete s .ok)

/-- `raise CmdError(code)`: the command's own writes end here and the completion bookkeeping runs (R8, R163). The unit
takes no trap (R180, R188), so this is a next state. -/
def raiseCmdError (s : State) (c : ErrCode) : Host.Outcome State Fault Refusal := .next (complete s c)

/-- The writes of RESULT and RESULT1 by a completion step (R30, R31). -/
def setResults (s : State) (r r1 : Word) : State := { s with result := r, result1 := r1 }

/-- A successful command's output: OUT, OUT_LEN and the two results (R116, R117, R118). -/
def putOutput (s : State) (w : List Byte) (r r1 : Word) : State :=
  setResults { writeOut s w with outLen := BitVec.ofNat 16 w.length } r r1

/-- What FRAME and DEFRAME record before they end with an error other than LEN_RANGE (R100, R116, R117):
OUT_LEN 0, the two results, and all of OUT ANY. -/
def discardOutput (s : State) (r r1 : Word) : State := putOutput s [] r r1

/-- Issue of the command word `v` by an IDLE ENGINE (R161). -/
def issue (s : State) (v : Word) : State :=
  { s with lastOp := opField v, done := false, errcode := 0#4, busy := true }

/-- The hardware reset, as one event (R210, R211, R42): every register at its reset value, IN and OUT unspecified from a
fresh draw; the events still to come stay (log 12). -/
def hardReset (s : State) : State :=
  { State.resetWith s.params with
    inputs := s.inputs, draws := s.draws + 1, inDraw := s.draws, outDraw := s.draws }

/-- Every register at its reset value and the ENGINE IDLE, the buffers as they are (R212). -/
def resetRegisters (s : State) : State :=
  { s with
    irqEn := false, busy := false, done := false, errcode := 0#4, werr := false, lastOp := 0#4, inLen := 0#16,
    outLen := 0#16, result := 0#32, result1 := 0#32, arg0 := 0#32, arg1 := 0#32, arg2 := 0#32 }

/-- The soft reset (R212): IN is kept; OUT is kept if the ENGINE was IDLE and becomes ANY if it was BUSY. -/
def softReset (s : State) : State := resetRegisters (if s.busy then freeOut s else s)

end Sys2Proof.Machine
end

