-- ==== Sys2Proof/Machine/Operands.lean ====
section
/-! DEFINITION. The operand forms of the commands (spec/30_encoding.md R81): the IN string with its length check, the
pseudo-header of ARG0 to ARG2, and the big-endian helpers (spec/40_framing.md R102). -/

namespace Sys2Proof.Machine

/-- `IN[0..n)` as a byte string. -/
def inBytes (s : State) (n : Nat) : List Byte := (List.range n).map (inByte s)

/-- `IN[0..IN_LEN)`. -/
def inString (s : State) : List Byte := inBytes s s.inLen.toNat

/-- IN_LEN is above IN_CAP (R28, R100). -/
def lenOutOfRange (s : State) : Bool := decide (s.params.inCap < s.inLen.toNat)

/-- A command that reads IN: the check of IN_LEN comes first, and when it fails nothing but STATUS changes
(R100, R140). -/
def withInput (s : State) (body : Host.Outcome State Fault Refusal) : Host.Outcome State Fault Refusal :=
  if lenOutOfRange s then raiseCmdError s .lenRange else body

/-- `be32(v)`: the four bytes of v, most significant first (R102). -/
def be32 (v : Word) : List Byte :=
  [v.extractLsb' 24 8, v.extractLsb' 16 8, v.extractLsb' 8 8, v.extractLsb' 0 8]

/-- The number a byte string writes in base 256, most significant byte first. -/
def beNat (bs : List Byte) : Nat := bs.foldl (fun acc b => acc * 256 + b.toNat) 0

/-- `u32be(s)` of a 4-byte string (R102); of other lengths the model's (log 11). -/
def u32be (bs : List Byte) : Word := BitVec.ofNat 32 (beNat bs)

/-- The 12-byte pseudo-header string of NETSUM_PH (R144). -/
def pseudoHeader (s : State) : List Byte := be32 s.arg0 ++ be32 s.arg1 ++ be32 s.arg2

end Sys2Proof.Machine
end

