-- ==== Sys2Proof/Machine/Codec.lean ====
section
/-! DEFINITION. The pure functions of the packet framing codec (spec/40_framing.md section 1): Crc32, the radix
conversion, the substitution, Frame and Deframe. -/

namespace Sys2Proof.Machine

/-- One bit of the reflected CRC-32 (R101). -/
def crcBit (c : Word) : Word := if c.getLsbD 0 then (c >>> 1) ^^^ 0xEDB88320#32 else c >>> 1

/-- `n` bits of the reflected CRC-32 (R101). -/
def crcBits : (n : Nat) → Word → Word
  | 0, c => c
  | n + 1, c => crcBits n (crcBit c)

/-- The CRC register after one more byte (R101). -/
def crcByte (c : Word) (b : Byte) : Word := crcBits 8 (c ^^^ b.setWidth 32)

/-- `Crc32(s)`, the variant that R101 fixes (the spec marks it general knowledge, G1; log 15). -/
def crc32 (bs : List Byte) : Word := bs.foldl crcByte 0xFFFFFFFF#32 ^^^ 0xFFFFFFFF#32

/-- R, the number of reserved byte values (R5). -/
def reservedCount (p : Params) : Nat := p.reserved.length

/-- B = 256 − R, the reduced base (R5). -/
def reducedBase (p : Params) : Nat := 256 - reservedCount p

/-- The base-`b` digits of `v`, least significant first, no leading zero digit; `fuel` bounds their number. -/
def digitsUpTo : (fuel b v : Nat) → List Nat
  | 0, _, _ => []
  | fuel + 1, b, v => if v = 0 then [] else v % b :: digitsUpTo fuel b (v / b)

/-- The base-`b` representation of `v`, most significant digit first, no leading zero digit (R104, R105). A number has
no more digits in base two or above than bits. -/
def toBase (b v : Nat) : List Nat := (digitsUpTo (Nat.log2 v + 1) b v).reverse

/-- The number that digits write in base `b`, most significant digit first (R105). -/
def ofBase (b : Nat) (ds : List Nat) : Nat := ds.foldl (fun acc d => acc * b + d) 0

/-- The default ToRadix: a big-endian number with the leading sentinel byte 0x01 (R104). -/
def sentinelToRadix (b : Nat) (t : List Byte) : List Nat := toBase b (256 ^ t.length + beNat t)

/-- The default FromRadix: the base-256 representation less its first byte; empty for 0 (R105). -/
def sentinelFromRadix (b : Nat) (ds : List Nat) : List Byte :=
  ((toBase 256 (ofBase b ds)).map (BitVec.ofNat 8)).tail

/-- The default RADIX_CODEC in base `b` (R5). -/
def sentinelPair (b : Nat) : RadixPair := ⟨sentinelToRadix b, sentinelFromRadix b⟩

/-- The pair that the parameters name (R5). What it is for the number of no substitute, in parameters that are ill formed,
is the model's (log 11). -/
def codecOf (p : Params) : RadixPair :=
  match p.codec with
  | .sentinel => sentinelPair (reducedBase p)
  | .substitute id =>
    match Config.substitutePair id (reducedBase p) with
    | some c => c.val
    | none => sentinelPair (reducedBase p)

/-- ToRadix of the unit's RADIX_CODEC (R5, R104). -/
def toRadix (p : Params) (t : List Byte) : List Nat := (codecOf p).toRadix t

/-- FromRadix of the unit's RADIX_CODEC (R5, R105). -/
def fromRadix (p : Params) (ds : List Nat) : List Byte := (codecOf p).fromRadix ds

/-- `sub(x)`: B + i if x is the reserved value r_i, else x (R107); what it gives for an x that is no digit is the model's
(log 11). -/
def subDigit (p : Params) (x : Nat) : Byte :=
  match p.reserved.findIdx? (fun r => r.toNat == x) with
  | some i => BitVec.ofNat 8 (reducedBase p + i)
  | none => BitVec.ofNat 8 x

/-- `Subst(d)` (R107). -/
def subst (p : Params) (ds : List Nat) : List Byte := ds.map (subDigit p)

/-- `unsub(y)`: r_i if y = B + i for a reserved value r_i below B, else y (R108). -/
def unsubByte (p : Params) (y : Byte) : Nat :=
  match p.reserved[y.toNat - reducedBase p]? with
  | some r => if reducedBase p ≤ y.toNat ∧ r.toNat < reducedBase p then r.toNat else y.toNat
  | none => y.toNat

/-- The bytes of a body that are not reserved (R108 step 1). -/
def stripReserved (p : Params) (body : List Byte) : List Byte := body.filter (fun y => !p.reserved.contains y)

/-- `Clean(body)`: strip the stray reserved bytes, then reverse the remap, in that order (R108, C1). -/
def clean (p : Params) (body : List Byte) : List Nat := (stripReserved p body).map (unsubByte p)

/-- The delimiter, carriage return (R103). -/
def delimiter : Byte := 0x0D#8

/-- `Frame(p)` of a payload (R109), with the pair `c` for RADIX_CODEC. -/
def frameWith (c : RadixPair) (p : Params) (payload : List Byte) : List Byte :=
  subst p (c.toRadix (payload ++ be32 (crc32 payload))) ++ [delimiter]

/-- `Frame(p)` with the pair that the parameters name. -/
def frame (p : Params) (payload : List Byte) : List Byte := frameWith (codecOf p) p payload

/-- What `Deframe` returns (R111). -/
inductive DeframeResult where
  | ok (payload : List Byte) (computed : Word)
  | tooShort
  | badChecksum (computed received : Word)
deriving DecidableEq, Repr

/-- Steps 5 to 7 of `Deframe`: the length check, the trailer, the recomputed CRC (R111). -/
def checkTrailer (t : List Byte) : DeframeResult :=
  if t.length < 4 then .tooShort
  else
    let payload := t.take (t.length - 4)
    let received := u32be (t.drop (t.length - 4))
    let computed := crc32 payload
    if computed = received then .ok payload computed else .badChecksum computed received

/-- `Deframe(w)` of a wire byte string (R111), with the pair `c` for RADIX_CODEC: only the last byte is taken as the
delimiter. -/
def deframeWith (c : RadixPair) (p : Params) (w : List Byte) : DeframeResult :=
  if w.getLast? = some delimiter then checkTrailer (c.fromRadix (clean p w.dropLast)) else .tooShort

/-- `Deframe(w)` with the pair that the parameters name. -/
def deframe (p : Params) (w : List Byte) : DeframeResult := deframeWith (codecOf p) p w

end Sys2Proof.Machine
end

