-- ==== Sys2Proof/Machine/Bus.lean ====
section
/-! DEFINITION. The bus slave port: decode of an offset, byte lanes, register reads and writes, and the two host
accesses (spec/20_memory.md, spec/10_state.md). -/

namespace Sys2Proof.Machine

/-- The fifteen registers (R20, R21). -/
inductive Reg where
  | id | ctrl | status | cmd | inLen | outLen | result | result1 | arg0 | arg1 | arg2 | rsv | cfg | inCap | outCap
deriving DecidableEq, Repr

/-- Where an accepted access goes (R61): a register, or the first of its bytes in a buffer. -/
inductive Region where
  | register (r : Reg)
  | inWindow (k : Nat)
  | outWindow (k : Nat)
deriving DecidableEq, Repr

/-- The number of bytes of an access. -/
def sizeBytes : Size → Nat
  | .one => 1
  | .two => 2
  | .four => 4

/-- The register map (R21). -/
def regAt (off : Nat) : Option Reg :=
  match off with
  | 0x000 => some .id
  | 0x004 => some .ctrl
  | 0x008 => some .status
  | 0x00C => some .cmd
  | 0x010 => some .inLen
  | 0x014 => some .outLen
  | 0x018 => some .result
  | 0x01C => some .result1
  | 0x020 => some .arg0
  | 0x024 => some .arg1
  | 0x028 => some .arg2
  | 0x02C => some .rsv
  | 0x030 => some .cfg
  | 0x034 => some .inCap
  | 0x038 => some .outCap
  | _ => none

/-- The offset of the IN window (R21). -/
def inBase : Nat := 0x4000

/-- The offset of the OUT window (R21). -/
def outBase : Nat := 0x8000

/-- The decode of an access of size `z` at offset `off` (R61 to R63): none where the port answers BusError, for a
misaligned access, an unmapped offset, a size the region does not accept or bytes that leave the region. -/
def decodeAccess (p : Params) (off : Nat) (z : Size) : Option Region :=
  if off % sizeBytes z ≠ 0 then none
  else if off < 0x003C then
    if z = .four then (regAt off).map .register else none
  else if inBase ≤ off ∧ off + sizeBytes z ≤ inBase + p.inCap then some (.inWindow (off - inBase))
  else if outBase ≤ off ∧ off + sizeBytes z ≤ outBase + p.outCap then some (.outWindow (off - outBase))
  else none

/-- The offset of a bus address in the unit's 64 KiB window, if it lies there (R60). -/
def unitOffset (p : Params) (addr : Nat) : Option Nat :=
  if p.unitBase ≤ addr ∧ addr < p.unitBase + 0x10000 then some (addr - p.unitBase) else none

/-- The registers whose reads return ANY while the ENGINE is BUSY (R39). -/
def anyWhileBusy : Reg → Bool
  | .outLen | .result | .result1 => true
  | .id | .ctrl | .status | .cmd | .inLen | .arg0 | .arg1 | .arg2 | .rsv | .cfg | .inCap | .outCap => false

/-- The registers that are locked while the ENGINE is BUSY (R21, R76). -/
def lockedReg : Reg → Bool
  | .cmd | .inLen | .arg0 | .arg1 | .arg2 => true
  | .id | .ctrl | .status | .outLen | .result | .result1 | .rsv | .cfg | .inCap | .outCap => false

/-- RSV: byte lane i holds r_i, and 0x00 from lane R on (R33). -/
def rsvWord (p : Params) : Word :=
  wordOfLanes (p.reserved.getD 0 0#8) (p.reserved.getD 1 0#8) (p.reserved.getD 2 0#8) (p.reserved.getD 3 0#8)

/-- CFG: R in bits 2:0, B in bits 15:8, the rest 0 (R33). -/
def cfgWord (p : Params) : Word :=
  (BitVec.ofNat 3 (reservedCount p)).setWidth 32 ||| ((BitVec.ofNat 8 (reducedBase p)).setWidth 32 <<< 8)

/-- The current value of a register, as a read returns it (R22 to R33). -/
def readReg (s : State) : Reg → Word
  | .id => 0x52424631#32
  | .ctrl => flagBit s.irqEn
  | .status => statusWord s
  | .cmd => s.lastOp.setWidth 32
  | .inLen => s.inLen.setWidth 32
  | .outLen => s.outLen.setWidth 32
  | .result => s.result
  | .result1 => s.result1
  | .arg0 => s.arg0
  | .arg1 => s.arg1
  | .arg2 => s.arg2
  | .rsv => rsvWord s.params
  | .cfg => cfgWord s.params
  | .inCap => BitVec.ofNat 32 s.params.inCap
  | .outCap => BitVec.ofNat 32 s.params.outCap

/-- CTRL.IRQ_EN <- b (R24). -/
def putIrqEn (s : State) (b : Bool) : State := { s with irqEn := b }

/-- A write of `v` to IN_LEN: bits 15:0, the rest is ignored (R28). -/
def putInLen (s : State) (v : Word) : State := { s with inLen := v.setWidth 16 }

/-- A write of `v` to ARG0 (R32). -/
def putArg0 (s : State) (v : Word) : State := { s with arg0 := v }

/-- A write of `v` to ARG1 (R32). -/
def putArg1 (s : State) (v : Word) : State := { s with arg1 := v }

/-- A write of `v` to ARG2 (R32). -/
def putArg2 (s : State) (v : Word) : State := { s with arg2 := v }

/-- A write of `v` to CTRL: IRQ_EN from bit 0, then the soft reset if bit 1 is set (R24). -/
def writeCtrl (s : State) (v : Word) : State :=
  if v.getLsbD 1 then softReset (putIrqEn s (v.getLsbD 0)) else putIrqEn s (v.getLsbD 0)

/-- A write of `v` to a register that is not locked at the moment (R22 to R33); writes to read-only registers are
ignored (R66). -/
def writeReg (s : State) (r : Reg) (v : Word) : State :=
  match r with
  | .ctrl => writeCtrl s v
  | .status => writeStatus s v
  | .cmd => issue s v
  | .inLen => putInLen s v
  | .arg0 => putArg0 s v
  | .arg1 => putArg1 s v
  | .arg2 => putArg2 s v
  | .id | .outLen | .result | .result1 | .rsv | .cfg | .inCap | .outCap => s

/-- A read of `n` bytes of a buffer from index `k`, byte k + j in lane j (R64). -/
def loadLanes (buf : Nat → Byte) (k : Nat) : (n : Nat) → Word
  | 0 => 0#32
  | n + 1 => loadLanes buf k n + ((buf (k + n)).setWidth 32 <<< (8 * n))

/-- A write of the `n` low lanes of `v` to a buffer, lane j at index k + j (R64). -/
def storeLanes (m : Memory) (k : Nat) (v : Word) : (n : Nat) → Memory
  | 0 => m
  | n + 1 => memWrite (storeLanes m k v n) (k + n) (v.extractLsb' (8 * n) 8)

/-- A write of the `n` low lanes of `v` to IN from index `k` (R64, R67). -/
def storeIn (s : State) (k : Nat) (v : Word) (n : Nat) : State := { s with inBuf := storeLanes s.inBuf k v n }

/-- The port's answer to an access. -/
def respond (s : State) (r : Response) : State := { s with response := r }

/-- `raise BusError(off)`: the error response, with no change of the unit's state (R184; log 9). -/
def busError (s : State) (off : Nat) : State := respond s (.busError off)

/-- A read that returns ANY while BUSY: a fresh free draw of `n` bytes at each such read (R39, U1; log 7). -/
def respondAny (s : State) (n : Nat) : State :=
  respond { s with draws := s.draws + 1 } (.data (((Config.freeBusyRead s.draws).setWidth (8 * n)).setWidth 32))

/-- `MemRead(off, n)` (R8): the answer goes to `response`; the unit's own state does not change (R66, R69). -/
def busRead (s : State) (off : Nat) (z : Size) : State :=
  match decodeAccess s.params off z with
  | none => busError s off
  | some (.register r) =>
    if s.busy && anyWhileBusy r then respondAny s (sizeBytes z) else respond s (.data (readReg s r))
  | some (.inWindow k) => respond s (.data (loadLanes (inByte s) k (sizeBytes z)))
  | some (.outWindow k) =>
    if s.busy then respondAny s (sizeBytes z) else respond s (.data (loadLanes (outByte s) k (sizeBytes z)))

/-- `MemWrite(off, n, v)` (R8): a locked write while BUSY is dropped and sets WERR (R76); a write to the OUT window is
ignored (R66). -/
def busWrite (s : State) (off : Nat) (z : Size) (v : Word) : State :=
  match decodeAccess s.params off z with
  | none => busError s off
  | some (.register r) =>
    respond (if s.busy && lockedReg r then dropLockedWrite s else writeReg s r v) .accepted
  | some (.inWindow k) =>
    respond (if s.busy then dropLockedWrite s else storeIn s k v (sizeBytes z)) .accepted
  | some (.outWindow _) => respond s .accepted

end Sys2Proof.Machine
end

