-- ==== Sys2Proof/Machine/Checksum.lean ====
section
/-! DEFINITION. The checksum family: the Internet checksum and the commands NETSUM and NETSUM_PH
(spec/41_checksum.md). -/

namespace Sys2Proof.Machine

/-- The exact sum of the big-endian 16-bit words of a string; a final odd byte is the high byte of a last word whose low
byte is 0 (R141, N17). -/
def wordSum : List Byte → Nat
  | [] => 0
  | [hi] => hi.toNat * 256
  | hi :: lo :: rest => (hi.toNat * 256 + lo.toNat) + wordSum rest

/-- `while (sum >> 16) ≠ 0: sum <- (sum & 0xFFFF) + (sum >> 16)` (R141); each round makes the sum smaller, so `fuel` at
the sum itself is enough. -/
def foldCarries : (fuel sum : Nat) → Nat
  | 0, sum => sum
  | fuel + 1, sum => if sum >>> 16 = 0 then sum else foldCarries fuel ((sum &&& 0xFFFF) + (sum >>> 16))

/-- The folded sum of a string: its one's-complement sum (R141). -/
def foldedSum (bs : List Byte) : Nat := foldCarries (wordSum bs) (wordSum bs)

/-- `NetChecksum(s)`: the one's complement of the folded sum, 16 bits (R141). -/
def netChecksum (bs : List Byte) : BitVec 16 := ~~~ BitVec.ofNat 16 (foldedSum bs)

/-- NETSUM (R143). -/
def execNetsum (s : State) : Host.Outcome State Fault Refusal :=
  withInput s (succeed (setResults s ((netChecksum (inString s)).setWidth 32) 0#32))

/-- NETSUM_PH (R144): the 12 bytes of ARG0 to ARG2, then the IN string. -/
def execNetsumPh (s : State) : Host.Outcome State Fault Refusal :=
  withInput s (succeed (setResults s ((netChecksum (pseudoHeader s ++ inString s)).setWidth 32) 0#32))

end Sys2Proof.Machine
end

