-- ==== Sys2Proof/Machine/Framing.lean ====
section
/-! DEFINITION. The meanings of the packet framing family: CRC32, FRAME, DEFRAME, U32PACK and U32UNPACK
(spec/40_framing.md section 2). Each is the completion step of its command (spec/42_sequencer.md R162). -/

namespace Sys2Proof.Machine

/-- CRC32 (R115). -/
def execCrc32 (s : State) : Host.Outcome State Fault Refusal :=
  withInput s (succeed (setResults s (crc32 (inString s)) 0#32))

/-- FRAME (R116) with the pair `c` for RADIX_CODEC (R5): OUT_OVERFLOW when the wire is longer than OUT_CAP. -/
def execFrameWith (c : RadixPair) (s : State) : Host.Outcome State Fault Refusal :=
  withInput s
    (if s.params.outCap < (frameWith c s.params (inString s)).length then
      raiseCmdError (discardOutput s 0#32 0#32) .outOverflow
    else succeed (putOutput s (frameWith c s.params (inString s)) (crc32 (inString s)) 0#32))

/-- FRAME with the pair that the parameters name. -/
def execFrame (s : State) : Host.Outcome State Fault Refusal := execFrameWith (codecOf s.params) s

/-- DEFRAME (R117) with the pair `c` for RADIX_CODEC (R5), with the error precedence of R183. -/
def execDeframeWith (c : RadixPair) (s : State) : Host.Outcome State Fault Refusal :=
  withInput s
    (match deframeWith c s.params (inString s) with
    | .tooShort => raiseCmdError (discardOutput s 0#32 0#32) .tooShort
    | .badChecksum computed received => raiseCmdError (discardOutput s computed received) .badChecksum
    | .ok payload computed =>
      if s.params.outCap < payload.length then raiseCmdError (discardOutput s 0#32 0#32) .outOverflow
      else succeed (putOutput s payload computed computed))

/-- DEFRAME with the pair that the parameters name. -/
def execDeframe (s : State) : Host.Outcome State Fault Refusal := execDeframeWith (codecOf s.params) s

/-- U32PACK (R118): IN_LEN is not read. -/
def execU32pack (s : State) : Host.Outcome State Fault Refusal :=
  succeed (putOutput s (be32 s.arg0) s.arg0 0#32)

/-- U32UNPACK (R119): LEN_RANGE before TOO_SHORT (R183). -/
def execU32unpack (s : State) : Host.Outcome State Fault Refusal :=
  withInput s
    (if s.inLen.toNat < 4 then raiseCmdError (setResults s 0#32 0#32) .tooShort
    else succeed (setResults s (u32be (inBytes s 4)) 0#32))

end Sys2Proof.Machine
end

