-- ==== Sys2Proof/Machine/Sequencer.lean ====
section
/-! DEFINITION. The meanings of the sequencer's own commands: NOP and the reserved opcodes (spec/42_sequencer.md). -/

namespace Sys2Proof.Machine

/-- NOP (R165): the completion bookkeeping and nothing else; IN_LEN is not checked. -/
def execNop (s : State) : Host.Outcome State Fault Refusal := succeed s

/-- The reserved opcodes 0x8 to 0xF (R166): BAD_OP, and nothing else changes. -/
def execReserved (_op : Opcode) (s : State) : Host.Outcome State Fault Refusal := raiseCmdError s .badOp

end Sys2Proof.Machine
end

