-- ==== Sys2Proof/Machine/Dispatch.lean ====
section
/-! DEFINITION. The completion step of each command (spec/42_sequencer.md R162), one arm per constructor. -/

namespace Sys2Proof.Machine

def exec (i : Instr) (s : State) : Host.Outcome State Fault Refusal :=
  match i with
  | .nop => Sys2Proof.Machine.execNop s
  | .crc32 => Sys2Proof.Machine.execCrc32 s
  | .frame => Sys2Proof.Machine.execFrame s
  | .deframe => Sys2Proof.Machine.execDeframe s
  | .u32pack => Sys2Proof.Machine.execU32pack s
  | .u32unpack => Sys2Proof.Machine.execU32unpack s
  | .netsum => Sys2Proof.Machine.execNetsum s
  | .netsumPh => Sys2Proof.Machine.execNetsumPh s
  | .reserved op => Sys2Proof.Machine.execReserved op s

end Sys2Proof.Machine
end

