-- ==== Sys2Proof/Machine/Engine.lean ====
section
/-! DEFINITION. One event of the run: a host access, the reset input or the ENGINE's turn (spec/00_scope.md R9,
spec/20_memory.md R68, spec/42_sequencer.md R162), and the machine with any pair given for RADIX_CODEC (R5). -/

namespace Sys2Proof.Machine

/-- The command latched in the ENGINE: what LAST_OP selects (R37, R162). -/
def latched (s : State) : Instr := decodeOpcode s.lastOp

/-- A completion step for each command. -/
abbrev Executor := Instr → State → Host.Outcome State Fault Refusal

/-- The completion step of each command with the pair `c` for RADIX_CODEC, whatever the parameters name (R5); only FRAME
and DEFRAME use the pair. -/
def execWith (c : RadixPair) : Executor
  | .frame, s => execFrameWith c s
  | .deframe, s => execDeframeWith c s
  | .nop, s => exec .nop s
  | .crc32, s => exec .crc32 s
  | .u32pack, s => exec .u32pack s
  | .u32unpack, s => exec .u32unpack s
  | .netsum, s => exec .netsum s
  | .netsumPh, s => exec .netsumPh s
  | .reserved op, s => exec (.reserved op) s

/-- The ENGINE's turn with the completion steps `ex`: a BUSY ENGINE completes the latched command, an IDLE one does
nothing (R38, R162). -/
def engineTurnBy (ex : Executor) (s : State) : Host.Outcome State Fault Refusal :=
  if s.busy then ex (latched s) s else .next s

/-- The ENGINE's turn (R162). -/
def engineTurn (s : State) : Host.Outcome State Fault Refusal := engineTurnBy exec s

/-- A host access at a bus address: the port decodes its own window only (R60; log 10). -/
def atOffset (s : State) (addr : Nat) (access : Nat → State) : Host.Outcome State Fault Refusal :=
  match unitOffset s.params addr with
  | some off => .next (access off)
  | none => .fault (.outsideWindow addr)

/-- The events still to come are `l`. -/
def setInputs (s : State) (l : List Input) : State := { s with inputs := l }

/-- What one event does, with the completion steps `ex`. -/
def takeInputBy (ex : Executor) (i : Input) (s : State) : Host.Outcome State Fault Refusal :=
  match i with
  | .read addr z => atOffset s addr (fun off => busRead s off z)
  | .write addr z v => atOffset s addr (fun off => busWrite s off z v)
  | .hardReset => .next (hardReset s)
  | .complete => engineTurnBy ex s

/-- The next event of the total order, with the completion steps `ex`; the ENGINE's turn once the list has run out, which
is the weak fairness of spec/42_sequencer.md R167 (R68, R187, R213; log 1, log 2). -/
def stepBy (ex : Executor) (s : State) : Host.Outcome State Fault Refusal :=
  match s.inputs with
  | [] => engineTurnBy ex s
  | i :: rest => takeInputBy ex i (setInputs s rest)

/-- One atomic event of the unit that is elaborated with the pair `c` for RADIX_CODEC (R5: a model takes each parameter
as an argument; log 4). -/
def stepWith (c : RadixPair) (s : State) : Host.Outcome State Fault Refusal := stepBy (execWith c) s

/-- Elaboration with the pair of RADIX_CODEC given as an argument: only a pair that meets the laws can be, and the other
parameters are checked as `elaborate` checks them (R5, R6, R106). It gives the unit at reset and its step. -/
def elaborateWith (p : Params) (c : {c : RadixPair // c.Lawful (reducedBase p)}) :
    Host.Outcome (State × (State → Host.Outcome State Fault Refusal)) Fault Refusal :=
  match elaborate { p with codec := .sentinel } with
  | .next s => .next (s, stepWith c.val)
  | .fault r => .fault r
  | .refused r => .refused r

end Sys2Proof.Machine
end

