-- ==== Sys2Proof/Machine/Step.lean ====
section
/-! DEFINITION. The step of the unit, with the RADIX_CODEC that its parameters name, and the state in which a given
command word is the next thing to run. -/

namespace Sys2Proof.Machine

/-- One atomic event (R68, R187, R213). -/
def step (s : State) : Host.Outcome State Fault Refusal := stepBy exec s

/-- The state in which the ENGINE has latched the command word `w`, as a CMD write issues it (R161), and its completion
is the very next event (log 1). -/
def State.withFetchWord (s : State) (nbits w : Nat) : State :=
  setInputs (issue s (BitVec.ofNat 32 (w % 2 ^ nbits))) (.complete :: s.inputs)

end Sys2Proof.Machine
end

