-- ==== Sys2Proof/Machine/HostLines.lean ====
section
/-! DEFINITION. The host notation of spec/30_encoding.md R85 and R86 as lists of events. The host's own branches are not
events of the unit (R85 `BIT0`), so WAIT is unrolled to a number of polls (log 16). -/

namespace Sys2Proof.Machine

/-- `W32 off, v` (R85). -/
def w32 (p : Params) (off : Nat) (v : Word) : Input := .write (p.unitBase + off) .four v

/-- `W16 off, v` (R85). -/
def w16 (p : Params) (off : Nat) (v : Word) : Input := .write (p.unitBase + off) .two v

/-- `W8 off, v` (R85). -/
def w8 (p : Params) (off : Nat) (v : Word) : Input := .write (p.unitBase + off) .one v

/-- `R32 off` (R85). -/
def r32 (p : Params) (off : Nat) : Input := .read (p.unitBase + off) .four

/-- `R16 off` (R85). -/
def r16 (p : Params) (off : Nat) : Input := .read (p.unitBase + off) .two

/-- `R8 off` (R85). -/
def r8 (p : Params) (off : Nat) : Input := .read (p.unitBase + off) .one

/-- `ISSUE m` (R86). -/
def issueLine (p : Params) (i : Instr) : Input := w32 p 0x00C (encodeWord i)

/-- The byte writes of `LOADIN`, from index `k` on (R86). -/
def loadBytes (p : Params) : (k : Nat) → List Byte → List Input
  | _, [] => []
  | k, b :: bs => w8 p (inBase + k) (b.setWidth 32) :: loadBytes p (k + 1) bs

/-- `LOADIN b0 … b(n−1)` (R86). -/
def loadIn (p : Params) (bs : List Byte) : List Input :=
  loadBytes p 0 bs ++ [w32 p 0x010 (BitVec.ofNat 32 bs.length)]

/-- `CLEARDONE` (R86). -/
def clearDone (p : Params) : Input := w32 p 0x008 0x2#32

/-- `READOUT n` (R86). -/
def readOut (p : Params) (n : Nat) : List Input := (List.range n).map (fun k => r8 p (outBase + k))

/-- `SETARG i, v` (R86). -/
def setArg (p : Params) (i : Fin 3) (v : Word) : Input := w32 p (0x020 + 4 * i.val) v

/-- `WAIT` (R86) in a run where `polls` polls read BUSY = 1: those polls, the ENGINE's completion, and the poll that
reads BUSY = 0 (log 16). -/
def waitLines (p : Params) (polls : Nat) : List Input :=
  List.replicate polls (r32 p 0x008) ++ [.complete, r32 p 0x008]

end Sys2Proof.Machine
end

