-- ==== Sys2Proof/Safety.lean ====
section
/-! DEFINITION. What counts as a legal state of the unit and the frame conditions, in the terms the claims use. -/

namespace Sys2Proof.Machine

/-- R25: BUSY = 1 implies DONE = 0 and ERRCODE = 0; ERRCODE takes only the values 0 to 5 (R181, U16). -/
structure StatusLegal (s : State) : Prop where
  busy_not_done : s.busy = true → s.done = false
  busy_no_error : s.busy = true → s.errcode = 0#4
  errcode_le : s.errcode.toNat ≤ 5

/-- The buffers have their canonical form and hold nothing outside IN[0..IN_CAP) and OUT[0..OUT_CAP) (R34). -/
structure BuffersLegal (s : State) : Prop where
  in_wf : Memory.wf s.inBuf = true
  out_wf : Memory.wf s.outBuf = true
  in_bound : ∀ k, (memRead s.inBuf k).isSome = true → k < s.params.inCap
  out_bound : ∀ k, (memRead s.outBuf k).isSome = true → k < s.params.outCap

/-- R29: OUT_LEN counts valid bytes of OUT, so each of them is specified and they lie in the buffer. -/
structure OutputLegal (s : State) : Prop where
  len_le : s.outLen.toNat ≤ s.params.outCap
  specified : ∀ k, k < s.outLen.toNat → (memRead s.outBuf k).isSome = true

/-- A legal state: well-formed parameters, a legal STATUS, legal buffers and a legal output. -/
structure Legal (s : State) : Prop where
  params : s.params.wf = true
  status : StatusLegal s
  buffers : BuffersLegal s
  output : OutputLegal s

/-- The codec that the parameters `p` name meets the laws of R106. -/
structure CodecLawful (p : Params) : Prop where
  digits_lt : ∀ t, ∀ x ∈ toRadix p t, x < reducedBase p
  round_trip : ∀ t, fromRadix p (toRadix p t) = t

/-- The completion bookkeeping happened with the code `c` (R163). -/
structure CompletedWith (c : ErrCode) (t : State) : Prop where
  code : t.errcode = errBits c
  idle : t.busy = false
  done : t.done = true

/-- What no completion step writes (R36): the parameters, CTRL, WERR, LAST_OP, IN_LEN, ARG0 to ARG2, every IN byte, and
the model's own events, response and IN draw. -/
structure SameHostSide (s t : State) : Prop where
  params : t.params = s.params
  irqEn : t.irqEn = s.irqEn
  werr : t.werr = s.werr
  lastOp : t.lastOp = s.lastOp
  inLen : t.inLen = s.inLen
  arg0 : t.arg0 = s.arg0
  arg1 : t.arg1 = s.arg1
  arg2 : t.arg2 = s.arg2
  inBytes : ∀ k, inByte t k = inByte s k
  inputs : t.inputs = s.inputs
  response : t.response = s.response

/-- OUT_LEN and every OUT byte are as they were. -/
structure SameOutput (s t : State) : Prop where
  outLen : t.outLen = s.outLen
  outBytes : ∀ k, outByte t k = outByte s k

/-- RESULT and RESULT1 are as they were. -/
structure SameResults (s t : State) : Prop where
  result : t.result = s.result
  result1 : t.result1 = s.result1

/-- Only STATUS changed, and by the bookkeeping with the code `c` (R100, R165, R166). -/
structure OnlyStatus (c : ErrCode) (s t : State) : Prop where
  completed : CompletedWith c t
  host : SameHostSide s t
  output : SameOutput s t
  results : SameResults s t

/-- OUT holds exactly the string `w`: OUT_LEN is its length, OUT[0..len(w)) are its bytes, and no OUT byte beyond holds
a specified value, so that each of them is ANY (R100, R219). -/
structure OutputIs (w : List Byte) (t : State) : Prop where
  outLen : t.outLen.toNat = w.length
  bytes : ∀ k, (h : k < w.length) → outByte t k = w[k]
  beyond : ∀ k, w.length ≤ k → memRead t.outBuf k = none

/-- The bytes and sizes the port accepts at an offset (R61 to R63). -/
def Accepted (p : Params) (off n : Nat) : Prop :=
  off % n = 0 ∧
    ((off < 0x003C ∧ n = 4) ∨ (0x4000 ≤ off ∧ off + n ≤ 0x4000 + p.inCap) ∨
      (0x8000 ≤ off ∧ off + n ≤ 0x8000 + p.outCap))

/-- The event is a reset: the reset input, or a CTRL write with bit 1 set (R9, R210, R212). -/
def Input.resets (p : Params) : Input → Prop
  | .hardReset => True
  | .write addr z v => unitOffset p addr = some 0x004 ∧ z = .four ∧ v.getLsbD 1 = true
  | .read _ _ => False
  | .complete => False

/-- The event's access, if it is one, lies in the unit's window (R60). -/
def Input.inWindow (p : Params) : Input → Prop
  | .read addr _ => (unitOffset p addr).isSome = true
  | .write addr _ _ => (unitOffset p addr).isSome = true
  | .hardReset => True
  | .complete => True

/-- The commands that read IN, and so check IN_LEN first (R81, R100, R140). -/
def readsIn : Instr → Bool
  | .crc32 | .frame | .deframe | .u32unpack | .netsum | .netsumPh => true
  | .nop | .u32pack | .reserved _ => false

/-- The number of IN bytes that the row of a command names: IN[0..IN_LEN), but of these IN[0..4) only for
U32UNPACK, and none where the command does not read IN (R81). -/
def operandBytes (i : Instr) (s : State) : Nat :=
  match i with
  | .crc32 | .frame | .deframe | .netsum | .netsumPh => s.inLen.toNat
  | .u32unpack => min 4 s.inLen.toNat
  | .nop | .u32pack | .reserved _ => 0

/-- The commands that write OUT and OUT_LEN (R29, R81). -/
def writesOut : Instr → Bool
  | .frame | .deframe | .u32pack => true
  | .nop | .crc32 | .u32unpack | .netsum | .netsumPh | .reserved _ => false

/-- The ENGINE takes the next step: BUSY, and the next event is its turn or no event is left. -/
def EngineNext (s : State) : Prop :=
  s.busy = true ∧ (s.inputs = [] ∨ ∃ rest, s.inputs = .complete :: rest)

/-- The event is a write that R76 names locked: CMD, IN_LEN, ARG0 to ARG2, or an accepted IN window write. -/
def Input.writesLocked (p : Params) : Input → Prop
  | .write addr z _ => ∃ off, unitOffset p addr = some off ∧
      ((z = .four ∧ (off = 0x00C ∨ off = 0x010 ∨ off = 0x020 ∨ off = 0x024 ∨ off = 0x028)) ∨
        (off % sizeBytes z = 0 ∧ 0x4000 ≤ off ∧ off + sizeBytes z ≤ 0x4000 + p.inCap))
  | .read _ _ => False
  | .hardReset => False
  | .complete => False

/-- The event is a 4-byte write of `v` to the register at offset `off`. -/
def Input.writesReg (p : Params) (off : Nat) (v : Word) : Input → Prop
  | .write addr z v' => unitOffset p addr = some off ∧ z = .four ∧ v' = v
  | .read _ _ => False
  | .hardReset => False
  | .complete => False

/-- The event is an accepted IN window write that stores to IN[k] (R64). -/
def Input.storesIn (p : Params) (k : Nat) : Input → Prop
  | .write addr z _ => ∃ off, unitOffset p addr = some off ∧ off % sizeBytes z = 0 ∧ 0x4000 ≤ off ∧
      off + sizeBytes z ≤ 0x4000 + p.inCap ∧ off ≤ 0x4000 + k ∧ 0x4000 + k < off + sizeBytes z
  | .read _ _ => False
  | .hardReset => False
  | .complete => False

/-- What a command in progress depends on: the parameters, LAST_OP, IN_LEN, ARG0 to ARG2 and the IN bytes (R74, R81). -/
structure SameOperands (s t : State) : Prop where
  params : t.params = s.params
  lastOp : t.lastOp = s.lastOp
  inLen : t.inLen = s.inLen
  arg0 : t.arg0 = s.arg0
  arg1 : t.arg1 = s.arg1
  arg2 : t.arg2 = s.arg2
  inBytes : ∀ k, inByte t k = inByte s k

/-- The encoding of a command (R80, R82): its opcode, and every command word with that opcode in its low four bits
selects it. -/
def EncodedAs (i : Instr) (op : Opcode) : Prop :=
  opcodeOf i = op ∧ ∀ w : Word, w &&& 0xF#32 = op.setWidth 32 → decodeWord w = i

/-- The codes each command can end with (R182). -/
def codesOf : Instr → List ErrCode
  | .nop => [.ok]
  | .crc32 => [.ok, .lenRange]
  | .frame => [.ok, .lenRange, .outOverflow]
  | .deframe => [.ok, .tooShort, .badChecksum, .lenRange, .outOverflow]
  | .u32pack => [.ok]
  | .u32unpack => [.ok, .tooShort, .lenRange]
  | .netsum => [.ok, .lenRange]
  | .netsumPh => [.ok, .lenRange]
  | .reserved _ => [.badOp]

/-- The sum Σ d[k] · b^(m−1−k) over the m digits of a list (R104, R105). -/
def radixValue (b : Nat) : List Nat → Nat
  | [] => 0
  | d :: ds => d * b ^ ds.length + radixValue b ds

/-- One bit of the CRC-32 register in the form that is not reflected: the register shifts left, and the generator
polynomial 0x04C11DB7 is added when the bit shifted out is 1 (R101). -/
def msbCrcBit (c : Word) : Word := if c.getLsbD 31 then (c <<< 1) ^^^ 0x04C11DB7#32 else c <<< 1

/-- The CRC-32 register after a byte string, most significant bit of each byte first, neither input nor output
reflected, from the initial value 0xFFFFFFFF (R101). -/
def msbCrc (bs : List Byte) : Word :=
  bs.foldl (fun c b => msbCrcBit^[8] (c ^^^ (b ++ 0#24 : Word))) 0xFFFFFFFF#32

/-- One's-complement addition of 16-bit words: a carry out of the top is added back at the bottom (R141, D16). -/
def endAroundAdd (a b : Nat) : Nat := if a + b < 0x10000 then a + b else a + b - 0xFFFF

/-- The big-endian 16-bit words of a string, a final odd byte padded with a low byte 0 (R141). -/
def wordsOf : List Byte → List Nat
  | [] => []
  | [hi] => [hi.toNat * 256]
  | hi :: lo :: rest => (hi.toNat * 256 + lo.toNat) :: wordsOf rest

end Sys2Proof.Machine
end

