-- ==== Sys2Proof/Certificates/Slice0/Obligations.lean ====
section
/-! DEFINITION. The statements for the provers, in the order of OBLIGATIONS.json. -/

open Sys2Proof
open Sys2Proof.Machine

/-! ## Encoding and decoding -/

/-- R80, R82: decoding the command word of any well-formed command, whatever its ignored bits 31:4 and whatever bytes
follow it, gives the command back and leaves those bytes. -/
def Obligations.DecodeEncodeRoundTrip : Prop :=
  ∀ i : Instr, i.wf = true → ∀ (ign : BitVec 28) (rest : List Byte),
    decode (lanesOfWord (encodeWith ign i) ++ rest) = .ok (i, rest)

/-- R82: the opcode map; the low four bits of a command word select exactly one row. -/
def Obligations.CommandWordSelectsOneRow : Prop :=
  ∀ w : Word,
    (w &&& 0xF#32 = 0x0#32 → decodeWord w = .nop) ∧ (w &&& 0xF#32 = 0x1#32 → decodeWord w = .crc32) ∧
    (w &&& 0xF#32 = 0x2#32 → decodeWord w = .frame) ∧ (w &&& 0xF#32 = 0x3#32 → decodeWord w = .deframe) ∧
    (w &&& 0xF#32 = 0x4#32 → decodeWord w = .u32pack) ∧ (w &&& 0xF#32 = 0x5#32 → decodeWord w = .u32unpack) ∧
    (w &&& 0xF#32 = 0x6#32 → decodeWord w = .netsum) ∧ (w &&& 0xF#32 = 0x7#32 → decodeWord w = .netsumPh) ∧
    (∀ op : Opcode, w &&& 0xF#32 = op.setWidth 32 → 8 ≤ op.toNat → decodeWord w = .reserved op) ∧
    (∀ i : Instr, i.wf = true → (decodeWord w = i ↔ w &&& 0xF#32 = (opcodeOf i).setWidth 32))

/-- Sample words of the vectors of spec/95_test_vectors.md (Q1 to Q3, L3-1, L3-3, L3-5) decode to their commands. -/
def Obligations.SampleCommandWordsDecode : Prop :=
  decodeWord 0x00000000#32 = .nop ∧ decodeWord 0x00000001#32 = .crc32 ∧ decodeWord 0x00000002#32 = .frame ∧
  decodeWord 0xFFFFFFF3#32 = .deframe ∧ decodeWord 0x00000004#32 = .u32pack ∧
  decodeWord 0x00000005#32 = .u32unpack ∧ decodeWord 0x00000007#32 = .netsumPh ∧
  decodeWord 0x0000000F#32 = .reserved 0xF#4

/-! ## The step -/

/-- R162: when the ENGINE takes the next step and the command word that CMD reads back decodes to `i`, the step is the
completion step of `i` at that state, with the ENGINE's turn taken off the list of events (log 1, log 2); so it is with
any pair given to the machine for RADIX_CODEC (R5, log 4), and `step` is the machine with the pair its parameters name. -/
def Obligations.StepRunsTheLatchedCommand : Prop :=
  ∀ (s : State) (i : Instr), EngineNext s → decode (lanesOfWord (readReg s .cmd)) = .ok (i, []) →
    step s = exec i (setInputs s s.inputs.tail) ∧
    (∀ c : RadixPair, stepWith c s = execWith c i (setInputs s s.inputs.tail)) ∧
    step s = stepWith (codecOf s.params) s

/-- The model's `withFetchWord` (log 1) makes the very next step the completion of exactly the command word given, in
the state its issue leaves (R161). -/
def Obligations.FetchWordRunsNext : Prop :=
  ∀ (s : State) (nbits w : Nat) (i : Instr), decodeTableWord nbits w = some i →
    step (s.withFetchWord nbits w) = exec i (issue s (BitVec.ofNat 32 (w % 2 ^ nbits)))

/-- R60, R68: a host access is one step, of the unit's own window; an access outside it stops the model by name (the
model's choice, log 10), and nothing else stops it (R180). -/
def Obligations.StepsAndTheOnlyStop : Prop :=
  ∀ s : State,
    (∀ addr z rest, s.inputs = .read addr z :: rest → s.params.unitBase ≤ addr → addr < s.params.unitBase + 0x10000 →
      step s = .next (busRead (setInputs s rest) (addr - s.params.unitBase) z)) ∧
    (∀ addr z v rest, s.inputs = .write addr z v :: rest → s.params.unitBase ≤ addr →
      addr < s.params.unitBase + 0x10000 →
      step s = .next (busWrite (setInputs s rest) (addr - s.params.unitBase) z v)) ∧
    (∀ i rest, s.inputs = i :: rest → ¬ Input.inWindow s.params i → ∃ addr, step s = .fault (.outsideWindow addr)) ∧
    ((∀ i rest, s.inputs = i :: rest → Input.inWindow s.params i) → ∃ t, step s = .next t)

/-- R161: a CMD write to an IDLE ENGINE issues the command of its low four bits and touches nothing else of the unit. -/
def Obligations.CmdWriteIssues : Prop :=
  ∀ (s : State) (v : Word), s.busy = false →
    busWrite s 0x00C .four v =
      { s with lastOp := v.extractLsb' 0 4, done := false, errcode := 0#4, busy := true, response := .accepted }

/-- R160: the two events of a command. From an IDLE ENGINE, a CMD write and then the ENGINE's turn complete the command
of the word written, on the operands as they stood at the write. -/
def Obligations.IssueThenCompletion : Prop :=
  ∀ (s : State) (addr : Nat) (v : Word) (rest : List Input), s.busy = false →
    unitOffset s.params addr = some 0x00C → s.inputs = .write addr .four v :: .complete :: rest →
    ∃ t u, step s = .next t ∧ t.busy = true ∧ t.done = false ∧ t.errcode = 0#4 ∧ t.werr = s.werr ∧
      step t = exec (decodeWord v) (setInputs t rest) ∧ step t = .next u ∧ u.busy = false ∧ u.done = true ∧
      u.inLen = s.inLen ∧ u.arg0 = s.arg0 ∧ u.arg1 = s.arg1 ∧ u.arg2 = s.arg2 ∧ (∀ k, inByte u k = inByte s k)

/-! ## The result and the frame of each command -/

/-- R165: NOP, its encoding; it ends with code 0 and writes BUSY, DONE and ERRCODE only; IN_LEN is not checked. -/
def Obligations.NopOnlyCompletes : Prop :=
  EncodedAs .nop 0x0#4 ∧ ∀ s : State, ∃ t, exec .nop s = .next t ∧ OnlyStatus .ok s t

/-- R166: the reserved opcodes, their encoding; each ends with BAD_OP and writes BUSY, DONE and ERRCODE only, and CMD reads
the opcode back. -/
def Obligations.ReservedEndsInBadOp : Prop :=
  (∀ op : Opcode, 8 ≤ op.toNat → EncodedAs (.reserved op) op) ∧
  ∀ (s : State) (op : Opcode), ∃ t, exec (.reserved op) s = .next t ∧ OnlyStatus .badOp s t ∧
    (s.lastOp = op → readReg t .cmd = op.setWidth 32)

/-- R115: CRC32, its encoding, its result, its LEN_RANGE error and its frame. -/
def Obligations.Crc32Command : Prop :=
  EncodedAs .crc32 0x1#4 ∧ ∀ s : State,
    (s.inLen.toNat ≤ s.params.inCap →
      ∃ t, exec .crc32 s = .next t ∧ CompletedWith .ok t ∧ t.result = crc32 (inBytes s s.inLen.toNat) ∧
        t.result1 = 0#32 ∧ SameHostSide s t ∧ SameOutput s t) ∧
    (s.params.inCap < s.inLen.toNat → ∃ t, exec .crc32 s = .next t ∧ OnlyStatus .lenRange s t)

/-- R116: FRAME, its encoding, its output, its errors LEN_RANGE and OUT_OVERFLOW, and its frame. -/
def Obligations.FrameCommand : Prop :=
  EncodedAs .frame 0x2#4 ∧ ∀ s : State, s.params.wf = true →
    (s.inLen.toNat ≤ s.params.inCap → (frame s.params (inString s)).length ≤ s.params.outCap →
      ∃ t, exec .frame s = .next t ∧ CompletedWith .ok t ∧ OutputIs (frame s.params (inString s)) t ∧
        t.result = crc32 (inString s) ∧ t.result1 = 0#32 ∧ SameHostSide s t) ∧
    (s.inLen.toNat ≤ s.params.inCap → s.params.outCap < (frame s.params (inString s)).length →
      ∃ t, exec .frame s = .next t ∧ CompletedWith .outOverflow t ∧ OutputIs [] t ∧
        t.result = 0#32 ∧ t.result1 = 0#32 ∧ SameHostSide s t) ∧
    (s.params.inCap < s.inLen.toNat → ∃ t, exec .frame s = .next t ∧ OnlyStatus .lenRange s t)

/-- R117: DEFRAME, its encoding, its output, its five errors and its frame. -/
def Obligations.DeframeCommand : Prop :=
  EncodedAs .deframe 0x3#4 ∧ ∀ s : State, s.params.wf = true →
    (∀ p cc, s.inLen.toNat ≤ s.params.inCap → deframe s.params (inString s) = .ok p cc →
      p.length ≤ s.params.outCap →
      ∃ t, exec .deframe s = .next t ∧ CompletedWith .ok t ∧ OutputIs p t ∧ t.result = cc ∧ t.result1 = cc ∧
        SameHostSide s t) ∧
    (∀ p cc, s.inLen.toNat ≤ s.params.inCap → deframe s.params (inString s) = .ok p cc →
      s.params.outCap < p.length →
      ∃ t, exec .deframe s = .next t ∧ CompletedWith .outOverflow t ∧ OutputIs [] t ∧ t.result = 0#32 ∧
        t.result1 = 0#32 ∧ SameHostSide s t) ∧
    (s.inLen.toNat ≤ s.params.inCap → deframe s.params (inString s) = .tooShort →
      ∃ t, exec .deframe s = .next t ∧ CompletedWith .tooShort t ∧ OutputIs [] t ∧ t.result = 0#32 ∧
        t.result1 = 0#32 ∧ SameHostSide s t) ∧
    (∀ cc rc, s.inLen.toNat ≤ s.params.inCap → deframe s.params (inString s) = .badChecksum cc rc →
      ∃ t, exec .deframe s = .next t ∧ CompletedWith .badChecksum t ∧ OutputIs [] t ∧ t.result = cc ∧
        t.result1 = rc ∧ SameHostSide s t) ∧
    (s.params.inCap < s.inLen.toNat → ∃ t, exec .deframe s = .next t ∧ OnlyStatus .lenRange s t)

/-- R118: U32PACK, its encoding, its output and its frame; IN_LEN is not read. -/
def Obligations.U32packCommand : Prop :=
  EncodedAs .u32pack 0x4#4 ∧ ∀ s : State, ∃ t, exec .u32pack s = .next t ∧ CompletedWith .ok t ∧
    OutputIs [s.arg0.extractLsb' 24 8, s.arg0.extractLsb' 16 8, s.arg0.extractLsb' 8 8, s.arg0.extractLsb' 0 8] t ∧
    t.result = s.arg0 ∧ t.result1 = 0#32 ∧ SameHostSide s t

/-- R119: U32UNPACK, its encoding, its result, its errors LEN_RANGE and TOO_SHORT, and its frame. -/
def Obligations.U32unpackCommand : Prop :=
  EncodedAs .u32unpack 0x5#4 ∧ ∀ s : State,
    (4 ≤ s.inLen.toNat → s.inLen.toNat ≤ s.params.inCap →
      ∃ t, exec .u32unpack s = .next t ∧ CompletedWith .ok t ∧
        t.result = inByte s 0 ++ inByte s 1 ++ inByte s 2 ++ inByte s 3 ∧ t.result1 = 0#32 ∧
        SameHostSide s t ∧ SameOutput s t) ∧
    (s.inLen.toNat < 4 → s.inLen.toNat ≤ s.params.inCap →
      ∃ t, exec .u32unpack s = .next t ∧ CompletedWith .tooShort t ∧ t.result = 0#32 ∧ t.result1 = 0#32 ∧
        SameHostSide s t ∧ SameOutput s t) ∧
    (s.params.inCap < s.inLen.toNat → ∃ t, exec .u32unpack s = .next t ∧ OnlyStatus .lenRange s t)

/-- R143: NETSUM, its encoding, its result, its LEN_RANGE error and its frame. -/
def Obligations.NetsumCommand : Prop :=
  EncodedAs .netsum 0x6#4 ∧ ∀ s : State,
    (s.inLen.toNat ≤ s.params.inCap →
      ∃ t, exec .netsum s = .next t ∧ CompletedWith .ok t ∧
        t.result = 0#16 ++ netChecksum (inBytes s s.inLen.toNat) ∧ t.result1 = 0#32 ∧
        SameHostSide s t ∧ SameOutput s t) ∧
    (s.params.inCap < s.inLen.toNat → ∃ t, exec .netsum s = .next t ∧ OnlyStatus .lenRange s t)

/-- R144: NETSUM_PH, its encoding, its result over the 12-byte string of ARG0 to ARG2 and then IN, its LEN_RANGE error and its
frame. -/
def Obligations.NetsumPhCommand : Prop :=
  EncodedAs .netsumPh 0x7#4 ∧ ∀ s : State,
    (s.inLen.toNat ≤ s.params.inCap →
      ∃ t, exec .netsumPh s = .next t ∧ CompletedWith .ok t ∧
        t.result = 0#16 ++
          netChecksum (be32 s.arg0 ++ be32 s.arg1 ++ be32 s.arg2 ++ inBytes s s.inLen.toNat) ∧
        t.result1 = 0#32 ∧ SameHostSide s t ∧ SameOutput s t ∧
        (s.arg0 = 0#32 → s.arg1 = 0#32 → s.arg2 = 0#32 →
          t.result = 0#16 ++ netChecksum (inBytes s s.inLen.toNat))) ∧
    (s.params.inCap < s.inLen.toNat → ∃ t, exec .netsumPh s = .next t ∧ OnlyStatus .lenRange s t)

/-- R183: exactly one code is reported, the first that applies in the rule's order. -/
def Obligations.ErrorPrecedence : Prop :=
  ∀ s : State,
    (∃ t, exec .deframe s = .next t ∧ t.errcode = errBits
      (if s.params.inCap < s.inLen.toNat then .lenRange
      else if (inString s).getLast? ≠ some 0x0D#8 then .tooShort
      else
        let d := fromRadix s.params (clean s.params (inString s).dropLast)
        if d.length < 4 then .tooShort
        else if crc32 (d.take (d.length - 4)) ≠ u32be (d.drop (d.length - 4)) then .badChecksum
        else if s.params.outCap < d.length - 4 then .outOverflow
        else .ok)) ∧
    (∃ t, exec .u32unpack s = .next t ∧ t.errcode = errBits
      (if s.params.inCap < s.inLen.toNat then .lenRange else if s.inLen.toNat < 4 then .tooShort else .ok)) ∧
    (∃ t, exec .frame s = .next t ∧ t.errcode = errBits
      (if s.params.inCap < s.inLen.toNat then .lenRange
      else if s.params.outCap < (frame s.params (inString s)).length then .outOverflow else .ok))

/-- R182 (derived in the spec): a command ends with the codes of its row of the table, and with each of them for some
legal parameters and state. -/
def Obligations.CommandCodesExactly : Prop :=
  ∀ (i : Instr) (c : ErrCode),
    c ∈ codesOf i ↔ ∃ s t : State, s.params.wf = true ∧ exec i s = .next t ∧ t.errcode = errBits c

/-- R67, R81: the error code, the results and the specified output of a command depend on nothing but the parameters
and the operands its row names: IN_LEN and the IN bytes below it (of them IN[0..4) only for U32UNPACK), ARG0, or ARG0 to
ARG2. -/
def Obligations.CommandsReadOnlyTheirOperands : Prop :=
  ∀ (i : Instr) (s s' t t' : State), s.params = s'.params →
    (readsIn i = true → s.inLen = s'.inLen ∧ ∀ k, k < operandBytes i s → inByte s k = inByte s' k) →
    (i = .u32pack → s.arg0 = s'.arg0) →
    (i = .netsumPh → s.arg0 = s'.arg0 ∧ s.arg1 = s'.arg1 ∧ s.arg2 = s'.arg2) →
    exec i s = .next t → exec i s' = .next t' →
    t.errcode = t'.errcode ∧
    ((readsIn i = true ∨ i = .u32pack) → t.errcode ≠ errBits .lenRange →
      t.result = t'.result ∧ t.result1 = t'.result1) ∧
    (writesOut i = true → t.errcode ≠ errBits .lenRange →
      t.outLen = t'.outLen ∧ ∀ k, k < t.outLen.toNat → memRead t.outBuf k = memRead t'.outBuf k)

/-! ## The pure functions -/

/-- R101 (general knowledge in the spec, G1; log 15): Crc32 is the CRC with generator polynomial 0x04C11DB7, input and
output reflected, initial value and final XOR 0xFFFFFFFF; and its two check values. -/
def Obligations.Crc32IsTheReflectedCrc : Prop :=
  (∀ bs : List Byte, crc32 bs = (msbCrc (bs.map BitVec.reverse)).reverse ^^^ 0xFFFFFFFF#32) ∧
  crc32 [0x31#8, 0x32#8, 0x33#8, 0x34#8, 0x35#8, 0x36#8, 0x37#8, 0x38#8, 0x39#8] = 0xCBF43926#32 ∧
  crc32 [] = 0x00000000#32

/-- R101: changing one byte of a string changes its Crc32. -/
def Obligations.Crc32DetectsOneChangedByte : Prop :=
  ∀ (u v : List Byte) (x y : Byte), crc32 (u ++ x :: v) = crc32 (u ++ y :: v) → x = y

/-- R102: the big-endian helpers, and that they are inverse. -/
def Obligations.BigEndianHelpersInverse : Prop :=
  (∀ v : Word, be32 v = [v.extractLsb' 24 8, v.extractLsb' 16 8, v.extractLsb' 8 8, v.extractLsb' 0 8]) ∧
  (∀ b0 b1 b2 b3 : Byte, (u32be [b0, b1, b2, b3]).toNat =
    b0.toNat * 2 ^ 24 + b1.toNat * 2 ^ 16 + b2.toNat * 2 ^ 8 + b3.toNat) ∧
  (∀ v : Word, u32be (be32 v) = v) ∧
  (∀ bs : List Byte, bs.length = 4 → be32 (u32be bs) = bs) ∧
  (∀ (p : Params) (payload : List Byte),
    frame p payload = subst p (toRadix p (payload ++ be32 (crc32 payload))) ++ [0x0D#8])

/-- R104: the default ToRadix writes the number 256^n + Σ t[k]·256^(n−1−k) in base B, most significant digit first, with
at least one digit, no leading zero digit and every digit below B. -/
def Obligations.ToRadixIsTheBaseBNumber : Prop :=
  ∀ (p : Params), p.wf = true → p.codec = .sentinel → ∀ t : List Byte,
    radixValue (reducedBase p) (toRadix p t) = 256 ^ t.length + radixValue 256 (t.map BitVec.toNat) ∧
    (∀ x ∈ toRadix p t, x < reducedBase p) ∧
    ∃ d ds, toRadix p t = d :: ds ∧ d ≠ 0

/-- R105: the default FromRadix is empty for the number 0 and otherwise drops the first byte of the number's base-256
representation, which has no leading zero byte. -/
def Obligations.FromRadixDropsTheTopByte : Prop :=
  ∀ (p : Params), p.wf = true → p.codec = .sentinel → ∀ d : List Nat, (∀ x ∈ d, x < reducedBase p) →
    (radixValue (reducedBase p) d = 0 → fromRadix p d = []) ∧
    (radixValue (reducedBase p) d ≠ 0 → ∃ b bs, b ≠ 0#8 ∧
      radixValue 256 ((b :: bs).map BitVec.toNat) = radixValue (reducedBase p) d ∧ fromRadix p d = bs)

/-- R106 (its proof is derived in the spec): the default pair meets the laws in the base of every well-formed parameter
set, and so does the codec the set names, be it the default one or a substitute (log 4). -/
def Obligations.SentinelCodecIsLawful : Prop :=
  ∀ p : Params, p.wf = true → (sentinelPair (reducedBase p)).Lawful (reducedBase p) ∧ CodecLawful p

/-- R107: the substitution, digit by digit. For the digits, which are below B, this is the rule; that the same holds of a
reserved value, or another number below 256, that is no digit is the model's choice (log 11). -/
def Obligations.SubstitutionOfDigits : Prop :=
  ∀ p : Params, p.wf = true →
    (∀ i r, p.reserved[i]? = some r → subDigit p r.toNat = BitVec.ofNat 8 (256 - p.reserved.length + i)) ∧
    (∀ x, x < 256 → BitVec.ofNat 8 x ∉ p.reserved → subDigit p x = BitVec.ofNat 8 x) ∧
    (∀ ds, subst p ds = ds.map (subDigit p))

/-- R108: cleaning a body strips the reserved bytes first and then reverses the remap. -/
def Obligations.CleanStripsThenReverses : Prop :=
  ∀ p : Params, p.wf = true →
    (∀ body, clean p body = (body.filter (fun y => decide (y ∉ p.reserved))).map (unsubByte p)) ∧
    (∀ i r, p.reserved[i]? = some r → r.toNat < reducedBase p →
      unsubByte p (BitVec.ofNat 8 (reducedBase p + i)) = r.toNat) ∧
    (∀ y : Byte, (∀ i r, p.reserved[i]? = some r → r.toNat < reducedBase p → y.toNat ≠ reducedBase p + i) →
      unsubByte p y = y.toNat)

/-- R111: the steps of Deframe, in order. -/
def Obligations.DeframeSteps : Prop :=
  ∀ p : Params,
    (∀ w : List Byte, (∀ body, w ≠ body ++ [0x0D#8]) → deframe p w = .tooShort) ∧
    (∀ body : List Byte, (fromRadix p (clean p body)).length < 4 → deframe p (body ++ [0x0D#8]) = .tooShort) ∧
    (∀ (body payload : List Byte) (b0 b1 b2 b3 : Byte),
      fromRadix p (clean p body) = payload ++ [b0, b1, b2, b3] →
      (crc32 payload ≠ b0 ++ b1 ++ b2 ++ b3 →
        deframe p (body ++ [0x0D#8]) = .badChecksum (crc32 payload) (b0 ++ b1 ++ b2 ++ b3)) ∧
      (crc32 payload = b0 ++ b1 ++ b2 ++ b3 → deframe p (body ++ [0x0D#8]) = .ok payload (crc32 payload)))

/-- R112, and of R107 and R108 what it rests on (each derived in the spec): the last byte of a frame is 0x0D, no other
byte is reserved, and 0x0D occurs once; no substituted digit is a reserved byte, and cleaning gives digits below B and
undoes the substitution. So it is with any lawful pair given for RADIX_CODEC (R5, R106). -/
def Obligations.WireGuarantee : Prop :=
  ∀ p : Params, p.wf = true → ∀ payload : List Byte,
    (frame p payload).getLast? = some 0x0D#8 ∧
    (∀ y ∈ (frame p payload).dropLast, y ∉ p.reserved) ∧
    (frame p payload).count 0x0D#8 = 1 ∧
    (∀ c : RadixPair, c.Lawful (reducedBase p) →
      (frameWith c p payload).getLast? = some 0x0D#8 ∧
      (∀ y ∈ (frameWith c p payload).dropLast, y ∉ p.reserved) ∧
      (frameWith c p payload).count 0x0D#8 = 1) ∧
    (∀ x, x < reducedBase p → subDigit p x ∉ p.reserved ∧ clean p [subDigit p x] = [x]) ∧
    (∀ body, ∀ x ∈ clean p body, x < reducedBase p)

/-- R113 (derived in the spec): a frame parses back to its payload, also with reserved bytes inserted anywhere in its
body; so it is with any lawful pair given for RADIX_CODEC (R5, R106). -/
def Obligations.FrameRoundTrip : Prop :=
  ∀ p : Params, p.wf = true → ∀ payload : List Byte,
    deframe p (frame p payload) = .ok payload (crc32 payload) ∧
    (∀ body : List Byte, body.filter (fun y => decide (y ∉ p.reserved)) = (frame p payload).dropLast →
      deframe p (body ++ [0x0D#8]) = .ok payload (crc32 payload)) ∧
    (∀ c : RadixPair, c.Lawful (reducedBase p) →
      deframeWith c p (frameWith c p payload) = .ok payload (crc32 payload) ∧
      ∀ body : List Byte, body.filter (fun y => decide (y ∉ p.reserved)) = (frameWith c p payload).dropLast →
        deframeWith c p (body ++ [0x0D#8]) = .ok payload (crc32 payload))

/-- R114 (derived in the spec): a frame of the default codec with one byte of its body changed never parses back to its
payload: it fails as too short or by its checksum, or it yields another string whose CRC matches. Of the default codec
only: the laws of R106 say nothing of digit lists that ToRadix does not give, so R114 does not follow for a substitute. -/
def Obligations.TamperedFrameNeverYieldsThePayload : Prop :=
  ∀ p : Params, p.wf = true → p.codec = .sentinel →
    ∀ (payload u v : List Byte) (x y : Byte), (frame p payload).dropLast = u ++ x :: v → y ≠ x →
      deframe p (u ++ y :: v ++ [0x0D#8]) = .tooShort ∨
      (∃ cc rc, cc ≠ rc ∧ deframe p (u ++ y :: v ++ [0x0D#8]) = .badChecksum cc rc) ∨
      (∃ q, q ≠ payload ∧ deframe p (u ++ y :: v ++ [0x0D#8]) = .ok q (crc32 q))

/-- R110 (derived in the spec): the length of a frame under the default codec and set, whatever the other parameters:
n + 6 for n up to 303; at most one of two adjacent values for each n, both taken at n = 304; and the selected maxima, which
every payload of those lengths takes. -/
def Obligations.FrameLength : Prop :=
  ∀ p : Params, p.reserved = Params.default.reserved → p.codec = .sentinel →
    (∀ payload : List Byte,
      (frame p payload).length = (toRadix p (payload ++ be32 (crc32 payload))).length + 1 ∧
      (payload.length ≤ 303 → (frame p payload).length = payload.length + 6) ∧
      (∀ m, (payload.length, m) ∈ [(1000, 1008), (4092, 4109), (4096, 4113), (16384, 16436)] →
        (frame p payload).length = m) ∧
      (∀ payload' : List Byte, payload'.length = payload.length →
        (frame p payload).length ≤ (frame p payload').length + 1)) ∧
    (∃ a b : List Byte, a.length = 304 ∧ b.length = 304 ∧ (frame p a).length = 310 ∧ (frame p b).length = 311)

/-- R116, R110 (the corner case is derived in the spec): with the default codec, reserved set and capacities, whatever the
base address and the interrupt line, FRAME of any IN string that fits IN completes with code 0 and at most 4113 bytes of
output. -/
def Obligations.DefaultFrameNeverOverflows : Prop :=
  ∀ s : State, s.params.reserved = Params.default.reserved → s.params.codec = .sentinel →
    s.params.inCap = 4096 → s.params.outCap = 4352 → s.inLen.toNat ≤ 4096 →
    ∃ t, exec .frame s = .next t ∧ CompletedWith .ok t ∧ s.inLen.toNat + 6 ≤ t.outLen.toNat ∧ t.outLen.toNat ≤ 4113

/-- R113, R116, R117: what FRAME leaves in OUT, moved to IN, DEFRAME turns back into the payload; with the codec that the
parameters name, and with any lawful pair given to the machine for RADIX_CODEC (R5, R106). -/
def Obligations.FrameThenDeframeCommands : Prop :=
  ∀ (ex : Executor) (s t s' : State), s.params.wf = true →
    (ex = exec ∨ ∃ c : RadixPair, c.Lawful (reducedBase s.params) ∧ ex = execWith c) →
    s.inLen.toNat ≤ s.params.outCap → ex .frame s = .next t → t.errcode = errBits .ok →
    s'.params = s.params → s'.inLen = t.outLen → s'.inLen.toNat ≤ s.params.inCap →
    (∀ k, k < t.outLen.toNat → inByte s' k = outByte t k) →
    ∃ u, ex .deframe s' = .next u ∧ CompletedWith .ok u ∧ u.outLen = s.inLen ∧
      (∀ k, k < s.inLen.toNat → outByte u k = inByte s k) ∧ u.result = t.result ∧ u.result1 = t.result

/-- R141 (derived in the spec): the Internet checksum is the complement of the sum with an end-around carry after every
word. -/
def Obligations.ChecksumIsEndAroundSum : Prop :=
  ∀ bs : List Byte, netChecksum bs = ~~~ BitVec.ofNat 16 ((wordsOf bs).foldl endAroundAdd 0)

/-- R142 item 3 (derived in the spec): a checksum inserted into its zeroed field at an even offset makes the checksum
zero. -/
def Obligations.InsertedChecksumVerifies : Prop :=
  ∀ (u v : List Byte), u.length % 2 = 0 →
    netChecksum (u ++ [(netChecksum (u ++ [0#8, 0#8] ++ v)).extractLsb' 8 8,
      (netChecksum (u ++ [0#8, 0#8] ++ v)).extractLsb' 0 8] ++ v) = 0#16

/-- R142 items 1, 2 and 4 (derived in the spec): zero strings, negative zero, and independence of the order of the words
and of splitting at even offsets. -/
def Obligations.ChecksumLaws : Prop :=
  (∀ n, netChecksum (List.replicate n 0#8) = 0xFFFF#16) ∧
  (∀ bs, foldedSum bs = 0xFFFF → netChecksum bs = 0#16) ∧ netChecksum [0xFF#8, 0xFF#8] = 0#16 ∧
  (∀ a b : List Byte, (wordsOf a).Perm (wordsOf b) → netChecksum a = netChecksum b) ∧
  (∀ a b : List Byte, a.length % 2 = 0 →
    netChecksum (a ++ b) = ~~~ BitVec.ofNat 16 (endAroundAdd (foldedSum a) (foldedSum b)))

/-! ## The bus -/

/-- R61 to R63, R184: an access that the decode rejects is answered by BusError and changes no state of the unit; an
accepted one is not answered by BusError, also when it is a dropped locked write. -/
def Obligations.BusErrorExactlyWhenRejected : Prop :=
  ∀ (s : State) (off : Nat) (z : Size) (v : Word),
    (¬ Accepted s.params off (sizeBytes z) →
      busRead s off z = { s with response := .busError off } ∧
      busWrite s off z v = { s with response := .busError off }) ∧
    (Accepted s.params off (sizeBytes z) →
      (∃ d, (busRead s off z).response = .data d) ∧ (busWrite s off z v).response = .accepted)

/-- R64: the byte lanes of the windows are little-endian; an idle IN window write changes nothing but the bytes of its
lanes. -/
def Obligations.LittleEndianLanes : Prop :=
  ∀ (s : State) (k : Nat) (z : Size) (v : Word), s.params.wf = true → k % sizeBytes z = 0 →
    (k + sizeBytes z ≤ s.params.inCap → s.busy = false →
      busWrite s (0x4000 + k) z v =
        { s with inBuf := (busWrite s (0x4000 + k) z v).inBuf, response := .accepted } ∧
      ∀ j, inByte (busWrite s (0x4000 + k) z v) j =
        if k ≤ j ∧ j < k + sizeBytes z then v.extractLsb' (8 * (j - k)) 8 else inByte s j) ∧
    (k + sizeBytes z ≤ s.params.inCap →
      ∃ d, (busRead s (0x4000 + k) z).response = .data d ∧
        d.toNat = ((List.range (sizeBytes z)).map fun j => (inByte s (k + j)).toNat * 2 ^ (8 * j)).sum) ∧
    (k + sizeBytes z ≤ s.params.outCap → s.busy = false →
      ∃ d, (busRead s (0x8000 + k) z).response = .data d ∧
        d.toNat = ((List.range (sizeBytes z)).map fun j => (outByte s (k + j)).toNat * 2 ^ (8 * j)).sum)

/-- R22, R33: the hardwired registers read their constants, also while BUSY, and ignore writes; and so do the other
read-only locations, OUT_LEN, RESULT, RESULT1 and the OUT window: a write to any of them is accepted and changes nothing,
BUSY or not (R66). -/
def Obligations.HardwiredRegisters : Prop :=
  ∀ s : State, s.params.wf = true →
    (busRead s 0x000 .four).response = .data 0x52424631#32 ∧
    (∃ d, (busRead s 0x02C .four).response = .data d ∧
      ∀ i, i < 4 → d.extractLsb' (8 * i) 8 = s.params.reserved.getD i 0#8) ∧
    (∃ d, (busRead s 0x030 .four).response = .data d ∧
      d.toNat = s.params.reserved.length + 2 ^ 8 * (256 - s.params.reserved.length)) ∧
    (∃ d, (busRead s 0x034 .four).response = .data d ∧ d.toNat = s.params.inCap) ∧
    (∃ d, (busRead s 0x038 .four).response = .data d ∧ d.toNat = s.params.outCap) ∧
    (∀ off v, off ∈ [0x000, 0x014, 0x018, 0x01C, 0x02C, 0x030, 0x034, 0x038] →
      busWrite s off .four v = { s with response := .accepted }) ∧
    (∀ k z v, k % sizeBytes z = 0 → k + sizeBytes z ≤ s.params.outCap →
      busWrite s (0x8000 + k) z v = { s with response := .accepted })

/-- R26: a write to STATUS clears DONE and WERR by ones, also while BUSY, and a read returns the fields at their bits. -/
def Obligations.StatusAccess : Prop :=
  ∀ (s : State) (v : Word),
    busWrite s 0x008 .four v = { s with done := s.done && !v.getLsbD 1, werr := s.werr && !v.getLsbD 8,
                                        response := .accepted } ∧
    ∃ d : Word, busRead s 0x008 .four = { s with response := .data d } ∧
      d.getLsbD 0 = s.busy ∧ d.getLsbD 1 = s.done ∧ d.getLsbD 2 = decide (s.errcode ≠ 0#4) ∧ d.getLsbD 3 = false ∧
      d.extractLsb' 4 4 = s.errcode ∧ d.getLsbD 8 = s.werr ∧ (∀ j, 9 ≤ j → d.getLsbD j = false)

/-- R24: a write to CTRL sets IRQ_EN from bit 0 or, with bit 1 set, leaves what a soft reset leaves, IRQ_EN included; a
read returns IRQ_EN in bit 0. -/
def Obligations.CtrlAccess : Prop :=
  ∀ (s : State) (v : Word),
    (v.getLsbD 1 = false → busWrite s 0x004 .four v = { s with irqEn := v.getLsbD 0, response := .accepted }) ∧
    (v.getLsbD 1 = true → busWrite s 0x004 .four v = { softReset s with response := .accepted } ∧
      (busWrite s 0x004 .four v).irqEn = false) ∧
    busRead s 0x004 .four = { s with response := .data (if s.irqEn then 1#32 else 0#32) }

/-- R212: the soft reset, atomically within a CTRL write with bit 1 set, also while BUSY. -/
def Obligations.SoftReset : Prop :=
  ∀ (s : State) (v : Word), v.getLsbD 1 = true →
    ∃ t, busWrite s 0x004 .four v = t ∧
      t.irqEn = false ∧ statusWord t = 0#32 ∧ t.lastOp = 0#4 ∧ t.inLen = 0#16 ∧ t.outLen = 0#16 ∧
      t.result = 0#32 ∧ t.result1 = 0#32 ∧ t.arg0 = 0#32 ∧ t.arg1 = 0#32 ∧ t.arg2 = 0#32 ∧ t.busy = false ∧
      irq t = false ∧ t.params = s.params ∧ (∀ k, inByte t k = inByte s k) ∧
      (s.busy = false → ∀ k, outByte t k = outByte s k) ∧
      (s.busy = true → ∀ k, memRead t.outBuf k = none)

/-- R42: what a hardware reset leaves, whatever the state before it; the buffers hold nothing specified, and after a soft
reset every register reads the same. That the events still to come stay is the model's choice (log 12). -/
def Obligations.HardwareReset : Prop :=
  ∀ (s : State) (rest : List Input), s.inputs = .hardReset :: rest →
    ∃ t, step s = .next t ∧
      readReg t .id = 0x52424631#32 ∧ readReg t .ctrl = 0#32 ∧ readReg t .status = 0#32 ∧ t.busy = false ∧
      readReg t .cmd = 0#32 ∧ readReg t .inLen = 0#32 ∧ readReg t .outLen = 0#32 ∧ readReg t .result = 0#32 ∧
      readReg t .result1 = 0#32 ∧ readReg t .arg0 = 0#32 ∧ readReg t .arg1 = 0#32 ∧ readReg t .arg2 = 0#32 ∧
      (∀ r ∈ [Reg.rsv, Reg.cfg, Reg.inCap, Reg.outCap], readReg t r = readReg s r) ∧ irq t = false ∧
      (∀ k, memRead t.inBuf k = none) ∧ (∀ k, memRead t.outBuf k = none) ∧ t.params = s.params ∧ t.inputs = rest ∧
      (∀ v : Word, v.getLsbD 1 = true → ∀ r, readReg (busWrite s 0x004 .four v) r = readReg t r)

/-- R76: while BUSY, a write to a locked location is accepted, changes nothing and sets WERR; writes to CTRL and STATUS
behave as when idle; writes to read-only locations are ignored and do not set WERR; reads of the result locations return
a free value and reads of the others the current value (R39). That the free value is fresh at each read and free in every
bit of the access, OUT_LEN[31:16] among them, is the model's choice (log 7), and the count of draws is its own (log 8). -/
def Obligations.AccessesWhileBusy : Prop :=
  ∀ (s : State) (v : Word), s.params.wf = true → s.busy = true →
    (∀ off, off ∈ [0x00C, 0x010, 0x020, 0x024, 0x028] →
      busWrite s off .four v = { s with werr := true, response := .accepted }) ∧
    (∀ k z, k % sizeBytes z = 0 → k + sizeBytes z ≤ s.params.inCap →
      busWrite s (0x4000 + k) z v = { s with werr := true, response := .accepted }) ∧
    (∀ off, off ∈ [0x000, 0x014, 0x018, 0x01C, 0x02C, 0x030, 0x034, 0x038] →
      busWrite s off .four v = { s with response := .accepted }) ∧
    (∀ k z, k % sizeBytes z = 0 → k + sizeBytes z ≤ s.params.outCap →
      busWrite s (0x8000 + k) z v = { s with response := .accepted }) ∧
    busWrite s 0x004 .four v = { writeCtrl s v with response := .accepted } ∧
    busWrite s 0x008 .four v = { writeStatus s v with response := .accepted } ∧
    (∀ off, off ∈ [0x014, 0x018, 0x01C] →
      busRead s off .four = { s with draws := s.draws + 1, response := .data (Config.freeBusyRead s.draws) }) ∧
    (∀ k z, k % sizeBytes z = 0 → k + sizeBytes z ≤ s.params.outCap →
      ∃ d, busRead s (0x8000 + k) z = { s with draws := s.draws + 1, response := .data d } ∧
        d.toNat = (Config.freeBusyRead s.draws).toNat % 2 ^ (8 * sizeBytes z)) ∧
    (∀ off r, regAt off = some r → off ∉ [0x014, 0x018, 0x01C] →
      busRead s off .four = { s with response := .data (readReg s r) }) ∧
    (∀ k z, k % sizeBytes z = 0 → k + sizeBytes z ≤ s.params.inCap →
      busRead s (0x4000 + k) z = { s with response := .data (loadLanes (inByte s) k (sizeBytes z)) })

/-- R164: a CMD write while BUSY issues nothing: it sets WERR, and LAST_OP, the latched command and the command's
eventual results are as they would have been. -/
def Obligations.BusyCmdWriteIsDropped : Prop :=
  ∀ (s : State) (v : Word), s.busy = true →
    ∃ t, busWrite s 0x00C .four v = t ∧ t.werr = true ∧ t.busy = true ∧ t.lastOp = s.lastOp ∧ latched t = latched s ∧
      ∀ i u, exec i s = .next u → ∃ u', exec i t = .next u' ∧ u' = { u with werr := true, response := .accepted }

/-- R28, R32: IN_LEN keeps the low 16 bits and ARG0 to ARG2 keep all bits of an idle write, and read them back; and R27,
R29 to R31: an idle read of CMD returns LAST_OP, of OUT_LEN, RESULT and RESULT1 their values, zero-extended. -/
def Obligations.OperandRegistersReadBack : Prop :=
  ∀ (s : State) (v : Word), s.busy = false →
    busRead (busWrite s 0x010 .four v) 0x010 .four =
      { s with inLen := v.setWidth 16, response := .data (v &&& 0xFFFF#32) } ∧
    busRead (busWrite s 0x020 .four v) 0x020 .four = { s with arg0 := v, response := .data v } ∧
    busRead (busWrite s 0x024 .four v) 0x024 .four = { s with arg1 := v, response := .data v } ∧
    busRead (busWrite s 0x028 .four v) 0x028 .four = { s with arg2 := v, response := .data v } ∧
    busRead s 0x00C .four = { s with response := .data (s.lastOp.setWidth 32) } ∧
    busRead s 0x014 .four = { s with response := .data (s.outLen.setWidth 32) } ∧
    busRead s 0x018 .four = { s with response := .data s.result } ∧
    busRead s 0x01C .four = { s with response := .data s.result1 }

/-- R66, R69: a read changes nothing of the unit; while IDLE a second read of the same location returns the same
answer (of an unspecified byte too, by the model's choice: log 5, log 6). -/
def Obligations.ReadsHaveNoSideEffect : Prop :=
  ∀ (s : State) (off : Nat) (z : Size),
    (∃ r n, busRead s off z = { s with response := r, draws := n } ∧ (s.busy = false → n = s.draws)) ∧
    (s.busy = false → ∀ off' z', (busRead (busRead s off' z') off z).response = (busRead s off z).response)

/-! ## Elaboration and the whole machine -/

/-- R5, R6: which parameters are well formed; the default ones are; and an ill-formed set is refused at elaboration,
while a well-formed one elaborates to the reset state of the unit with these parameters. A substitute codec is well formed
when its number names a pair; only pairs that meet the laws of R106 can be named, and that they are named by numbers is the
model's choice (log 3, log 4). With a lawful pair given as an argument, elaboration checks the other parameters and gives
the reset state, its codec field at the default, and the step with that pair, which does not read the field. -/
def Obligations.ElaborationRefusesIllFormed : Prop :=
  (∀ p : Params, p.wf = true ↔
    p.unitBase % 0x10000 = 0 ∧ 4 ≤ p.inCap ∧ p.inCap ≤ 16384 ∧ 6 ≤ p.outCap ∧ p.outCap ≤ 16384 ∧
    1 ≤ p.reserved.length ∧ p.reserved.length ≤ 4 ∧ p.reserved.Nodup ∧ 0x0D#8 ∈ p.reserved ∧
    (∀ i r, p.reserved[i]? = some r → r.toNat < 256 - p.reserved.length →
      BitVec.ofNat 8 (256 - p.reserved.length + i) ∉ p.reserved) ∧
    (∀ id, p.codec = .substitute id → (Config.substitutePair id (256 - p.reserved.length)).isSome = true)) ∧
  Params.default.wf = true ∧
  (∀ p : Params, p.wf = false → elaborate p = .refused .illFormedParams) ∧
  (∀ p : Params, p.wf = true → elaborate p = .next (State.resetWith p)) ∧
  (∀ (p : Params) (c : {c : RadixPair // c.Lawful (reducedBase p)}),
    (({ p with codec := .sentinel } : Params).wf = true →
      elaborateWith p c = .next (State.resetWith { p with codec := .sentinel }, stepWith c.val)) ∧
    (({ p with codec := .sentinel } : Params).wf = false → elaborateWith p c = .refused .illFormedParams))

/-- The reset state of every well-formed unit is legal. -/
def Obligations.ResetIsLegal : Prop :=
  Legal State.reset ∧ ∀ p : Params, p.wf = true → Legal (State.resetWith p)

/-- R25, R29, R34, R181: every step keeps a legal state legal: STATUS legal, ERRCODE at most 5, the buffers canonical and
inside their capacity, and every byte that OUT_LEN counts specified. -/
def Obligations.StepKeepsLegal : Prop :=
  ∀ s t : State, Legal s → step s = .next t → Legal t

/-- R5, R6: no event changes an elaboration parameter. -/
def Obligations.StepKeepsParams : Prop :=
  ∀ s t : State, step s = .next t → t.params = s.params

/-- R29, R36, R219: OUT_LEN, RESULT, RESULT1 and the bytes of OUT change only by the completion of a command or by a
reset, and OUT_LEN and OUT only by the completion of FRAME, DEFRAME or U32PACK or by a reset. That an unspecified OUT byte
reads the same between these is the model's choice (log 6). -/
def Obligations.OutputsChangeOnlyByCompletionOrReset : Prop :=
  ∀ s t : State, step s = .next t → (∀ i rest, s.inputs = i :: rest → ¬ Input.resets s.params i) →
    (t.result ≠ s.result ∨ t.result1 ≠ s.result1 → EngineNext s ∧ (readsIn (latched s) = true ∨ latched s = .u32pack)) ∧
    (t.outLen ≠ s.outLen ∨ (∃ k, outByte t k ≠ outByte s k) → EngineNext s ∧ writesOut (latched s) = true)

/-- R34, R67, R76: a byte of IN changes only by an accepted IN window write that covers it while the ENGINE is IDLE, or
by a hardware reset. That an unwritten IN byte reads the same until then is the model's choice (log 5). -/
def Obligations.InBytesChangeOnlyByIdleWrites : Prop :=
  ∀ (s t : State) (k : Nat), step s = .next t → inByte t k ≠ inByte s k →
    ∃ i rest, s.inputs = i :: rest ∧ ((s.busy = false ∧ Input.storesIn s.params k i) ∨ i = .hardReset)

/-- R185: WERR is set only by a locked write while BUSY, and every such write sets it; it is cleared only by a STATUS
write with bit 8 set or by a reset, issuing a command included among what does not clear it. -/
def Obligations.WerrIsSticky : Prop :=
  ∀ s t : State, step s = .next t →
    (s.werr = false → t.werr = true →
      s.busy = true ∧ ∃ i rest, s.inputs = i :: rest ∧ Input.writesLocked s.params i) ∧
    (s.werr = true → t.werr = false → ∃ i rest, s.inputs = i :: rest ∧
      (Input.resets s.params i ∨ ∃ v : Word, v.getLsbD 8 = true ∧ Input.writesReg s.params 0x008 v i)) ∧
    (∀ i rest, s.busy = true → s.inputs = i :: rest → Input.writesLocked s.params i → t.werr = true)

/-- R40, R186: irq is IRQ_EN and DONE; it rises only at a completion, which sets DONE whatever the error code, or when
IRQ_EN is set; it falls only by a STATUS write with bit 1 set, by the issue of the next command, by clearing IRQ_EN, which
leaves DONE, or by a reset, and each of these clears it. -/
def Obligations.IrqRisesAndFalls : Prop :=
  (∀ s : State, irq s = true ↔ s.irqEn = true ∧ s.done = true) ∧
  ∀ s t : State, step s = .next t →
    (irq s = false → irq t = true → (EngineNext s ∧ s.irqEn = true) ∨
      ∃ i rest v, s.inputs = i :: rest ∧ s.done = true ∧ v.getLsbD 0 = true ∧ v.getLsbD 1 = false ∧
        Input.writesReg s.params 0x004 v i) ∧
    (irq s = true → irq t = false → ∃ i rest, s.inputs = i :: rest ∧
      (Input.resets s.params i ∨
        (∃ v : Word, v.getLsbD 1 = true ∧ Input.writesReg s.params 0x008 v i) ∨
        (s.busy = false ∧ t.busy = true ∧ ∃ v : Word, Input.writesReg s.params 0x00C v i) ∨
        (t.done = true ∧ ∃ v : Word, v.getLsbD 0 = false ∧ Input.writesReg s.params 0x004 v i))) ∧
    (EngineNext s → t.done = true ∧ irq t = s.irqEn) ∧
    (∀ i rest, s.inputs = i :: rest →
      (Input.resets s.params i ∨ (∃ v : Word, v.getLsbD 1 = true ∧ Input.writesReg s.params 0x008 v i) ∨
        (s.busy = false ∧ ∃ v : Word, Input.writesReg s.params 0x00C v i) ∨
        (∃ v : Word, v.getLsbD 0 = false ∧ Input.writesReg s.params 0x004 v i)) → irq t = false)

/-- R74, R76, R215: while BUSY, a step that is neither the ENGINE's turn nor a reset leaves the ENGINE BUSY with every
operand of the command in progress as it was. -/
def Obligations.OperandsAreLockedWhileBusy : Prop :=
  ∀ s t : State, s.busy = true → ¬ EngineNext s → (∀ i rest, s.inputs = i :: rest → ¬ Input.resets s.params i) →
    step s = .next t → t.busy = true ∧ SameOperands s t

/-- R167, in the form the model gives it (log 2): unless a reset is among the events, a BUSY ENGINE completes its command
on its operands after finitely many host accesses, at the latest when the list of events has run out. -/
def Obligations.BusyEngineCompletes : Prop :=
  ∀ s : State, s.busy = true →
    (∀ i ∈ s.inputs, ¬ Input.resets s.params i ∧ Input.inWindow s.params i) →
    ∃ k t u, k ≤ s.inputs.length ∧ Host.Core.run core k s = .next t ∧ EngineNext t ∧ SameOperands s t ∧
      step t = exec (latched s) (setInputs t t.inputs.tail) ∧ step t = .next u ∧ u.busy = false ∧ u.done = true

/-- R211: a reset, of either kind, aborts the command in progress: what it leaves, and no step of a run that starts with
the reset and goes on with host reads and the ENGINE's turns sets DONE or raises irq. -/
def Obligations.ResetAbortsTheCommand : Prop :=
  ∀ (s t : State) (i : Input) (rest : List Input), s.inputs = i :: rest → Input.resets s.params i →
    step s = .next t →
    t.busy = false ∧ t.done = false ∧ irq t = false ∧ t.result = 0#32 ∧ t.result1 = 0#32 ∧ t.outLen = 0#16 ∧
    (s.busy = true → ∀ k, memRead t.outBuf k = none) ∧
    ((∀ j ∈ rest, j = .complete ∨ ∃ addr z, j = .read addr z) →
      ∀ k u, Host.Core.run core k t = .next u → u.done = false ∧ irq u = false)
end

