-- ==== Sys2Proof/Laws/State.lean ====
section
/-! SUPPORT. One lemma for each field of State under each named update, true by rfl, so that no later proof unfolds a
record update; and the buffer bytes under the updates that keep them. -/

namespace Sys2Proof.Machine

variable (s : State)


@[simp] theorem complete_params (c : ErrCode) : (complete s c).params = s.params := rfl
@[simp] theorem complete_irqEn (c : ErrCode) : (complete s c).irqEn = s.irqEn := rfl
@[simp] theorem complete_busy (c : ErrCode) : (complete s c).busy = false := rfl
@[simp] theorem complete_done (c : ErrCode) : (complete s c).done = true := rfl
@[simp] theorem complete_errcode (c : ErrCode) : (complete s c).errcode = errBits c := rfl
@[simp] theorem complete_werr (c : ErrCode) : (complete s c).werr = s.werr := rfl
@[simp] theorem complete_lastOp (c : ErrCode) : (complete s c).lastOp = s.lastOp := rfl
@[simp] theorem complete_inLen (c : ErrCode) : (complete s c).inLen = s.inLen := rfl
@[simp] theorem complete_outLen (c : ErrCode) : (complete s c).outLen = s.outLen := rfl
@[simp] theorem complete_result (c : ErrCode) : (complete s c).result = s.result := rfl
@[simp] theorem complete_result1 (c : ErrCode) : (complete s c).result1 = s.result1 := rfl
@[simp] theorem complete_arg0 (c : ErrCode) : (complete s c).arg0 = s.arg0 := rfl
@[simp] theorem complete_arg1 (c : ErrCode) : (complete s c).arg1 = s.arg1 := rfl
@[simp] theorem complete_arg2 (c : ErrCode) : (complete s c).arg2 = s.arg2 := rfl
@[simp] theorem complete_inBuf (c : ErrCode) : (complete s c).inBuf = s.inBuf := rfl
@[simp] theorem complete_outBuf (c : ErrCode) : (complete s c).outBuf = s.outBuf := rfl
@[simp] theorem complete_inputs (c : ErrCode) : (complete s c).inputs = s.inputs := rfl
@[simp] theorem complete_response (c : ErrCode) : (complete s c).response = s.response := rfl
@[simp] theorem complete_draws (c : ErrCode) : (complete s c).draws = s.draws := rfl
@[simp] theorem complete_inDraw (c : ErrCode) : (complete s c).inDraw = s.inDraw := rfl
@[simp] theorem complete_outDraw (c : ErrCode) : (complete s c).outDraw = s.outDraw := rfl
@[simp] theorem complete_inByte (c : ErrCode) (j : Nat) : inByte (complete s c) j = inByte s j := rfl
@[simp] theorem complete_outByte (c : ErrCode) (j : Nat) : outByte (complete s c) j = outByte s j := rfl

@[simp] theorem setResults_params (r r1 : Word) : (setResults s r r1).params = s.params := rfl
@[simp] theorem setResults_irqEn (r r1 : Word) : (setResults s r r1).irqEn = s.irqEn := rfl
@[simp] theorem setResults_busy (r r1 : Word) : (setResults s r r1).busy = s.busy := rfl
@[simp] theorem setResults_done (r r1 : Word) : (setResults s r r1).done = s.done := rfl
@[simp] theorem setResults_errcode (r r1 : Word) : (setResults s r r1).errcode = s.errcode := rfl
@[simp] theorem setResults_werr (r r1 : Word) : (setResults s r r1).werr = s.werr := rfl
@[simp] theorem setResults_lastOp (r r1 : Word) : (setResults s r r1).lastOp = s.lastOp := rfl
@[simp] theorem setResults_inLen (r r1 : Word) : (setResults s r r1).inLen = s.inLen := rfl
@[simp] theorem setResults_outLen (r r1 : Word) : (setResults s r r1).outLen = s.outLen := rfl
@[simp] theorem setResults_result (r r1 : Word) : (setResults s r r1).result = r := rfl
@[simp] theorem setResults_result1 (r r1 : Word) : (setResults s r r1).result1 = r1 := rfl
@[simp] theorem setResults_arg0 (r r1 : Word) : (setResults s r r1).arg0 = s.arg0 := rfl
@[simp] theorem setResults_arg1 (r r1 : Word) : (setResults s r r1).arg1 = s.arg1 := rfl
@[simp] theorem setResults_arg2 (r r1 : Word) : (setResults s r r1).arg2 = s.arg2 := rfl
@[simp] theorem setResults_inBuf (r r1 : Word) : (setResults s r r1).inBuf = s.inBuf := rfl
@[simp] theorem setResults_outBuf (r r1 : Word) : (setResults s r r1).outBuf = s.outBuf := rfl
@[simp] theorem setResults_inputs (r r1 : Word) : (setResults s r r1).inputs = s.inputs := rfl
@[simp] theorem setResults_response (r r1 : Word) : (setResults s r r1).response = s.response := rfl
@[simp] theorem setResults_draws (r r1 : Word) : (setResults s r r1).draws = s.draws := rfl
@[simp] theorem setResults_inDraw (r r1 : Word) : (setResults s r r1).inDraw = s.inDraw := rfl
@[simp] theorem setResults_outDraw (r r1 : Word) : (setResults s r r1).outDraw = s.outDraw := rfl
@[simp] theorem setResults_inByte (r r1 : Word) (j : Nat) : inByte (setResults s r r1) j = inByte s j := rfl
@[simp] theorem setResults_outByte (r r1 : Word) (j : Nat) : outByte (setResults s r r1) j = outByte s j := rfl

@[simp] theorem writeOut_params (w : List Byte) : (writeOut s w).params = s.params := rfl
@[simp] theorem writeOut_irqEn (w : List Byte) : (writeOut s w).irqEn = s.irqEn := rfl
@[simp] theorem writeOut_busy (w : List Byte) : (writeOut s w).busy = s.busy := rfl
@[simp] theorem writeOut_done (w : List Byte) : (writeOut s w).done = s.done := rfl
@[simp] theorem writeOut_errcode (w : List Byte) : (writeOut s w).errcode = s.errcode := rfl
@[simp] theorem writeOut_werr (w : List Byte) : (writeOut s w).werr = s.werr := rfl
@[simp] theorem writeOut_lastOp (w : List Byte) : (writeOut s w).lastOp = s.lastOp := rfl
@[simp] theorem writeOut_inLen (w : List Byte) : (writeOut s w).inLen = s.inLen := rfl
@[simp] theorem writeOut_outLen (w : List Byte) : (writeOut s w).outLen = s.outLen := rfl
@[simp] theorem writeOut_result (w : List Byte) : (writeOut s w).result = s.result := rfl
@[simp] theorem writeOut_result1 (w : List Byte) : (writeOut s w).result1 = s.result1 := rfl
@[simp] theorem writeOut_arg0 (w : List Byte) : (writeOut s w).arg0 = s.arg0 := rfl
@[simp] theorem writeOut_arg1 (w : List Byte) : (writeOut s w).arg1 = s.arg1 := rfl
@[simp] theorem writeOut_arg2 (w : List Byte) : (writeOut s w).arg2 = s.arg2 := rfl
@[simp] theorem writeOut_inBuf (w : List Byte) : (writeOut s w).inBuf = s.inBuf := rfl
@[simp] theorem writeOut_outBuf (w : List Byte) : (writeOut s w).outBuf = memOfBytes 0 w := rfl
@[simp] theorem writeOut_inputs (w : List Byte) : (writeOut s w).inputs = s.inputs := rfl
@[simp] theorem writeOut_response (w : List Byte) : (writeOut s w).response = s.response := rfl
@[simp] theorem writeOut_draws (w : List Byte) : (writeOut s w).draws = s.draws + 1 := rfl
@[simp] theorem writeOut_inDraw (w : List Byte) : (writeOut s w).inDraw = s.inDraw := rfl
@[simp] theorem writeOut_outDraw (w : List Byte) : (writeOut s w).outDraw = s.draws := rfl
@[simp] theorem writeOut_inByte (w : List Byte) (j : Nat) : inByte (writeOut s w) j = inByte s j := rfl

@[simp] theorem putOutput_params (w : List Byte) (r r1 : Word) : (putOutput s w r r1).params = s.params := rfl
@[simp] theorem putOutput_irqEn (w : List Byte) (r r1 : Word) : (putOutput s w r r1).irqEn = s.irqEn := rfl
@[simp] theorem putOutput_busy (w : List Byte) (r r1 : Word) : (putOutput s w r r1).busy = s.busy := rfl
@[simp] theorem putOutput_done (w : List Byte) (r r1 : Word) : (putOutput s w r r1).done = s.done := rfl
@[simp] theorem putOutput_errcode (w : List Byte) (r r1 : Word) : (putOutput s w r r1).errcode = s.errcode := rfl
@[simp] theorem putOutput_werr (w : List Byte) (r r1 : Word) : (putOutput s w r r1).werr = s.werr := rfl
@[simp] theorem putOutput_lastOp (w : List Byte) (r r1 : Word) : (putOutput s w r r1).lastOp = s.lastOp := rfl
@[simp] theorem putOutput_inLen (w : List Byte) (r r1 : Word) : (putOutput s w r r1).inLen = s.inLen := rfl
@[simp] theorem putOutput_outLen (w : List Byte) (r r1 : Word) : (putOutput s w r r1).outLen = BitVec.ofNat 16 w.length := rfl
@[simp] theorem putOutput_result (w : List Byte) (r r1 : Word) : (putOutput s w r r1).result = r := rfl
@[simp] theorem putOutput_result1 (w : List Byte) (r r1 : Word) : (putOutput s w r r1).result1 = r1 := rfl
@[simp] theorem putOutput_arg0 (w : List Byte) (r r1 : Word) : (putOutput s w r r1).arg0 = s.arg0 := rfl
@[simp] theorem putOutput_arg1 (w : List Byte) (r r1 : Word) : (putOutput s w r r1).arg1 = s.arg1 := rfl
@[simp] theorem putOutput_arg2 (w : List Byte) (r r1 : Word) : (putOutput s w r r1).arg2 = s.arg2 := rfl
@[simp] theorem putOutput_inBuf (w : List Byte) (r r1 : Word) : (putOutput s w r r1).inBuf = s.inBuf := rfl
@[simp] theorem putOutput_outBuf (w : List Byte) (r r1 : Word) : (putOutput s w r r1).outBuf = memOfBytes 0 w := rfl
@[simp] theorem putOutput_inputs (w : List Byte) (r r1 : Word) : (putOutput s w r r1).inputs = s.inputs := rfl
@[simp] theorem putOutput_response (w : List Byte) (r r1 : Word) : (putOutput s w r r1).response = s.response := rfl
@[simp] theorem putOutput_draws (w : List Byte) (r r1 : Word) : (putOutput s w r r1).draws = s.draws + 1 := rfl
@[simp] theorem putOutput_inDraw (w : List Byte) (r r1 : Word) : (putOutput s w r r1).inDraw = s.inDraw := rfl
@[simp] theorem putOutput_outDraw (w : List Byte) (r r1 : Word) : (putOutput s w r r1).outDraw = s.draws := rfl
@[simp] theorem putOutput_inByte (w : List Byte) (r r1 : Word) (j : Nat) : inByte (putOutput s w r r1) j = inByte s j := rfl

@[simp] theorem discardOutput_params (r r1 : Word) : (discardOutput s r r1).params = s.params := rfl
@[simp] theorem discardOutput_irqEn (r r1 : Word) : (discardOutput s r r1).irqEn = s.irqEn := rfl
@[simp] theorem discardOutput_busy (r r1 : Word) : (discardOutput s r r1).busy = s.busy := rfl
@[simp] theorem discardOutput_done (r r1 : Word) : (discardOutput s r r1).done = s.done := rfl
@[simp] theorem discardOutput_errcode (r r1 : Word) : (discardOutput s r r1).errcode = s.errcode := rfl
@[simp] theorem discardOutput_werr (r r1 : Word) : (discardOutput s r r1).werr = s.werr := rfl
@[simp] theorem discardOutput_lastOp (r r1 : Word) : (discardOutput s r r1).lastOp = s.lastOp := rfl
@[simp] theorem discardOutput_inLen (r r1 : Word) : (discardOutput s r r1).inLen = s.inLen := rfl
@[simp] theorem discardOutput_outLen (r r1 : Word) : (discardOutput s r r1).outLen = 0#16 := rfl
@[simp] theorem discardOutput_result (r r1 : Word) : (discardOutput s r r1).result = r := rfl
@[simp] theorem discardOutput_result1 (r r1 : Word) : (discardOutput s r r1).result1 = r1 := rfl
@[simp] theorem discardOutput_arg0 (r r1 : Word) : (discardOutput s r r1).arg0 = s.arg0 := rfl
@[simp] theorem discardOutput_arg1 (r r1 : Word) : (discardOutput s r r1).arg1 = s.arg1 := rfl
@[simp] theorem discardOutput_arg2 (r r1 : Word) : (discardOutput s r r1).arg2 = s.arg2 := rfl
@[simp] theorem discardOutput_inBuf (r r1 : Word) : (discardOutput s r r1).inBuf = s.inBuf := rfl
@[simp] theorem discardOutput_outBuf (r r1 : Word) : (discardOutput s r r1).outBuf = [] := rfl
@[simp] theorem discardOutput_inputs (r r1 : Word) : (discardOutput s r r1).inputs = s.inputs := rfl
@[simp] theorem discardOutput_response (r r1 : Word) : (discardOutput s r r1).response = s.response := rfl
@[simp] theorem discardOutput_draws (r r1 : Word) : (discardOutput s r r1).draws = s.draws + 1 := rfl
@[simp] theorem discardOutput_inDraw (r r1 : Word) : (discardOutput s r r1).inDraw = s.inDraw := rfl
@[simp] theorem discardOutput_outDraw (r r1 : Word) : (discardOutput s r r1).outDraw = s.draws := rfl
@[simp] theorem discardOutput_inByte (r r1 : Word) (j : Nat) : inByte (discardOutput s r r1) j = inByte s j := rfl

@[simp] theorem issue_params (v : Word) : (issue s v).params = s.params := rfl
@[simp] theorem issue_irqEn (v : Word) : (issue s v).irqEn = s.irqEn := rfl
@[simp] theorem issue_busy (v : Word) : (issue s v).busy = true := rfl
@[simp] theorem issue_done (v : Word) : (issue s v).done = false := rfl
@[simp] theorem issue_errcode (v : Word) : (issue s v).errcode = 0#4 := rfl
@[simp] theorem issue_werr (v : Word) : (issue s v).werr = s.werr := rfl
@[simp] theorem issue_lastOp (v : Word) : (issue s v).lastOp = opField v := rfl
@[simp] theorem issue_inLen (v : Word) : (issue s v).inLen = s.inLen := rfl
@[simp] theorem issue_outLen (v : Word) : (issue s v).outLen = s.outLen := rfl
@[simp] theorem issue_result (v : Word) : (issue s v).result = s.result := rfl
@[simp] theorem issue_result1 (v : Word) : (issue s v).result1 = s.result1 := rfl
@[simp] theorem issue_arg0 (v : Word) : (issue s v).arg0 = s.arg0 := rfl
@[simp] theorem issue_arg1 (v : Word) : (issue s v).arg1 = s.arg1 := rfl
@[simp] theorem issue_arg2 (v : Word) : (issue s v).arg2 = s.arg2 := rfl
@[simp] theorem issue_inBuf (v : Word) : (issue s v).inBuf = s.inBuf := rfl
@[simp] theorem issue_outBuf (v : Word) : (issue s v).outBuf = s.outBuf := rfl
@[simp] theorem issue_inputs (v : Word) : (issue s v).inputs = s.inputs := rfl
@[simp] theorem issue_response (v : Word) : (issue s v).response = s.response := rfl
@[simp] theorem issue_draws (v : Word) : (issue s v).draws = s.draws := rfl
@[simp] theorem issue_inDraw (v : Word) : (issue s v).inDraw = s.inDraw := rfl
@[simp] theorem issue_outDraw (v : Word) : (issue s v).outDraw = s.outDraw := rfl
@[simp] theorem issue_inByte (v : Word) (j : Nat) : inByte (issue s v) j = inByte s j := rfl
@[simp] theorem issue_outByte (v : Word) (j : Nat) : outByte (issue s v) j = outByte s j := rfl

@[simp] theorem dropLockedWrite_params : (dropLockedWrite s).params = s.params := rfl
@[simp] theorem dropLockedWrite_irqEn : (dropLockedWrite s).irqEn = s.irqEn := rfl
@[simp] theorem dropLockedWrite_busy : (dropLockedWrite s).busy = s.busy := rfl
@[simp] theorem dropLockedWrite_done : (dropLockedWrite s).done = s.done := rfl
@[simp] theorem dropLockedWrite_errcode : (dropLockedWrite s).errcode = s.errcode := rfl
@[simp] theorem dropLockedWrite_werr : (dropLockedWrite s).werr = true := rfl
@[simp] theorem dropLockedWrite_lastOp : (dropLockedWrite s).lastOp = s.lastOp := rfl
@[simp] theorem dropLockedWrite_inLen : (dropLockedWrite s).inLen = s.inLen := rfl
@[simp] theorem dropLockedWrite_outLen : (dropLockedWrite s).outLen = s.outLen := rfl
@[simp] theorem dropLockedWrite_result : (dropLockedWrite s).result = s.result := rfl
@[simp] theorem dropLockedWrite_result1 : (dropLockedWrite s).result1 = s.result1 := rfl
@[simp] theorem dropLockedWrite_arg0 : (dropLockedWrite s).arg0 = s.arg0 := rfl
@[simp] theorem dropLockedWrite_arg1 : (dropLockedWrite s).arg1 = s.arg1 := rfl
@[simp] theorem dropLockedWrite_arg2 : (dropLockedWrite s).arg2 = s.arg2 := rfl
@[simp] theorem dropLockedWrite_inBuf : (dropLockedWrite s).inBuf = s.inBuf := rfl
@[simp] theorem dropLockedWrite_outBuf : (dropLockedWrite s).outBuf = s.outBuf := rfl
@[simp] theorem dropLockedWrite_inputs : (dropLockedWrite s).inputs = s.inputs := rfl
@[simp] theorem dropLockedWrite_response : (dropLockedWrite s).response = s.response := rfl
@[simp] theorem dropLockedWrite_draws : (dropLockedWrite s).draws = s.draws := rfl
@[simp] theorem dropLockedWrite_inDraw : (dropLockedWrite s).inDraw = s.inDraw := rfl
@[simp] theorem dropLockedWrite_outDraw : (dropLockedWrite s).outDraw = s.outDraw := rfl
@[simp] theorem dropLockedWrite_inByte (j : Nat) : inByte (dropLockedWrite s) j = inByte s j := rfl
@[simp] theorem dropLockedWrite_outByte (j : Nat) : outByte (dropLockedWrite s) j = outByte s j := rfl

@[simp] theorem writeStatus_params (v : Word) : (writeStatus s v).params = s.params := rfl
@[simp] theorem writeStatus_irqEn (v : Word) : (writeStatus s v).irqEn = s.irqEn := rfl
@[simp] theorem writeStatus_busy (v : Word) : (writeStatus s v).busy = s.busy := rfl
@[simp] theorem writeStatus_done (v : Word) : (writeStatus s v).done = (s.done && !v.getLsbD 1) := rfl
@[simp] theorem writeStatus_errcode (v : Word) : (writeStatus s v).errcode = s.errcode := rfl
@[simp] theorem writeStatus_werr (v : Word) : (writeStatus s v).werr = (s.werr && !v.getLsbD 8) := rfl
@[simp] theorem writeStatus_lastOp (v : Word) : (writeStatus s v).lastOp = s.lastOp := rfl
@[simp] theorem writeStatus_inLen (v : Word) : (writeStatus s v).inLen = s.inLen := rfl
@[simp] theorem writeStatus_outLen (v : Word) : (writeStatus s v).outLen = s.outLen := rfl
@[simp] theorem writeStatus_result (v : Word) : (writeStatus s v).result = s.result := rfl
@[simp] theorem writeStatus_result1 (v : Word) : (writeStatus s v).result1 = s.result1 := rfl
@[simp] theorem writeStatus_arg0 (v : Word) : (writeStatus s v).arg0 = s.arg0 := rfl
@[simp] theorem writeStatus_arg1 (v : Word) : (writeStatus s v).arg1 = s.arg1 := rfl
@[simp] theorem writeStatus_arg2 (v : Word) : (writeStatus s v).arg2 = s.arg2 := rfl
@[simp] theorem writeStatus_inBuf (v : Word) : (writeStatus s v).inBuf = s.inBuf := rfl
@[simp] theorem writeStatus_outBuf (v : Word) : (writeStatus s v).outBuf = s.outBuf := rfl
@[simp] theorem writeStatus_inputs (v : Word) : (writeStatus s v).inputs = s.inputs := rfl
@[simp] theorem writeStatus_response (v : Word) : (writeStatus s v).response = s.response := rfl
@[simp] theorem writeStatus_draws (v : Word) : (writeStatus s v).draws = s.draws := rfl
@[simp] theorem writeStatus_inDraw (v : Word) : (writeStatus s v).inDraw = s.inDraw := rfl
@[simp] theorem writeStatus_outDraw (v : Word) : (writeStatus s v).outDraw = s.outDraw := rfl
@[simp] theorem writeStatus_inByte (v : Word) (j : Nat) : inByte (writeStatus s v) j = inByte s j := rfl
@[simp] theorem writeStatus_outByte (v : Word) (j : Nat) : outByte (writeStatus s v) j = outByte s j := rfl

@[simp] theorem putIrqEn_params (b : Bool) : (putIrqEn s b).params = s.params := rfl
@[simp] theorem putIrqEn_irqEn (b : Bool) : (putIrqEn s b).irqEn = b := rfl
@[simp] theorem putIrqEn_busy (b : Bool) : (putIrqEn s b).busy = s.busy := rfl
@[simp] theorem putIrqEn_done (b : Bool) : (putIrqEn s b).done = s.done := rfl
@[simp] theorem putIrqEn_errcode (b : Bool) : (putIrqEn s b).errcode = s.errcode := rfl
@[simp] theorem putIrqEn_werr (b : Bool) : (putIrqEn s b).werr = s.werr := rfl
@[simp] theorem putIrqEn_lastOp (b : Bool) : (putIrqEn s b).lastOp = s.lastOp := rfl
@[simp] theorem putIrqEn_inLen (b : Bool) : (putIrqEn s b).inLen = s.inLen := rfl
@[simp] theorem putIrqEn_outLen (b : Bool) : (putIrqEn s b).outLen = s.outLen := rfl
@[simp] theorem putIrqEn_result (b : Bool) : (putIrqEn s b).result = s.result := rfl
@[simp] theorem putIrqEn_result1 (b : Bool) : (putIrqEn s b).result1 = s.result1 := rfl
@[simp] theorem putIrqEn_arg0 (b : Bool) : (putIrqEn s b).arg0 = s.arg0 := rfl
@[simp] theorem putIrqEn_arg1 (b : Bool) : (putIrqEn s b).arg1 = s.arg1 := rfl
@[simp] theorem putIrqEn_arg2 (b : Bool) : (putIrqEn s b).arg2 = s.arg2 := rfl
@[simp] theorem putIrqEn_inBuf (b : Bool) : (putIrqEn s b).inBuf = s.inBuf := rfl
@[simp] theorem putIrqEn_outBuf (b : Bool) : (putIrqEn s b).outBuf = s.outBuf := rfl
@[simp] theorem putIrqEn_inputs (b : Bool) : (putIrqEn s b).inputs = s.inputs := rfl
@[simp] theorem putIrqEn_response (b : Bool) : (putIrqEn s b).response = s.response := rfl
@[simp] theorem putIrqEn_draws (b : Bool) : (putIrqEn s b).draws = s.draws := rfl
@[simp] theorem putIrqEn_inDraw (b : Bool) : (putIrqEn s b).inDraw = s.inDraw := rfl
@[simp] theorem putIrqEn_outDraw (b : Bool) : (putIrqEn s b).outDraw = s.outDraw := rfl
@[simp] theorem putIrqEn_inByte (b : Bool) (j : Nat) : inByte (putIrqEn s b) j = inByte s j := rfl
@[simp] theorem putIrqEn_outByte (b : Bool) (j : Nat) : outByte (putIrqEn s b) j = outByte s j := rfl

@[simp] theorem putInLen_params (v : Word) : (putInLen s v).params = s.params := rfl
@[simp] theorem putInLen_irqEn (v : Word) : (putInLen s v).irqEn = s.irqEn := rfl
@[simp] theorem putInLen_busy (v : Word) : (putInLen s v).busy = s.busy := rfl
@[simp] theorem putInLen_done (v : Word) : (putInLen s v).done = s.done := rfl
@[simp] theorem putInLen_errcode (v : Word) : (putInLen s v).errcode = s.errcode := rfl
@[simp] theorem putInLen_werr (v : Word) : (putInLen s v).werr = s.werr := rfl
@[simp] theorem putInLen_lastOp (v : Word) : (putInLen s v).lastOp = s.lastOp := rfl
@[simp] theorem putInLen_inLen (v : Word) : (putInLen s v).inLen = v.setWidth 16 := rfl
@[simp] theorem putInLen_outLen (v : Word) : (putInLen s v).outLen = s.outLen := rfl
@[simp] theorem putInLen_result (v : Word) : (putInLen s v).result = s.result := rfl
@[simp] theorem putInLen_result1 (v : Word) : (putInLen s v).result1 = s.result1 := rfl
@[simp] theorem putInLen_arg0 (v : Word) : (putInLen s v).arg0 = s.arg0 := rfl
@[simp] theorem putInLen_arg1 (v : Word) : (putInLen s v).arg1 = s.arg1 := rfl
@[simp] theorem putInLen_arg2 (v : Word) : (putInLen s v).arg2 = s.arg2 := rfl
@[simp] theorem putInLen_inBuf (v : Word) : (putInLen s v).inBuf = s.inBuf := rfl
@[simp] theorem putInLen_outBuf (v : Word) : (putInLen s v).outBuf = s.outBuf := rfl
@[simp] theorem putInLen_inputs (v : Word) : (putInLen s v).inputs = s.inputs := rfl
@[simp] theorem putInLen_response (v : Word) : (putInLen s v).response = s.response := rfl
@[simp] theorem putInLen_draws (v : Word) : (putInLen s v).draws = s.draws := rfl
@[simp] theorem putInLen_inDraw (v : Word) : (putInLen s v).inDraw = s.inDraw := rfl
@[simp] theorem putInLen_outDraw (v : Word) : (putInLen s v).outDraw = s.outDraw := rfl
@[simp] theorem putInLen_inByte (v : Word) (j : Nat) : inByte (putInLen s v) j = inByte s j := rfl
@[simp] theorem putInLen_outByte (v : Word) (j : Nat) : outByte (putInLen s v) j = outByte s j := rfl

@[simp] theorem putArg0_params (v : Word) : (putArg0 s v).params = s.params := rfl
@[simp] theorem putArg0_irqEn (v : Word) : (putArg0 s v).irqEn = s.irqEn := rfl
@[simp] theorem putArg0_busy (v : Word) : (putArg0 s v).busy = s.busy := rfl
@[simp] theorem putArg0_done (v : Word) : (putArg0 s v).done = s.done := rfl
@[simp] theorem putArg0_errcode (v : Word) : (putArg0 s v).errcode = s.errcode := rfl
@[simp] theorem putArg0_werr (v : Word) : (putArg0 s v).werr = s.werr := rfl
@[simp] theorem putArg0_lastOp (v : Word) : (putArg0 s v).lastOp = s.lastOp := rfl
@[simp] theorem putArg0_inLen (v : Word) : (putArg0 s v).inLen = s.inLen := rfl
@[simp] theorem putArg0_outLen (v : Word) : (putArg0 s v).outLen = s.outLen := rfl
@[simp] theorem putArg0_result (v : Word) : (putArg0 s v).result = s.result := rfl
@[simp] theorem putArg0_result1 (v : Word) : (putArg0 s v).result1 = s.result1 := rfl
@[simp] theorem putArg0_arg0 (v : Word) : (putArg0 s v).arg0 = v := rfl
@[simp] theorem putArg0_arg1 (v : Word) : (putArg0 s v).arg1 = s.arg1 := rfl
@[simp] theorem putArg0_arg2 (v : Word) : (putArg0 s v).arg2 = s.arg2 := rfl
@[simp] theorem putArg0_inBuf (v : Word) : (putArg0 s v).inBuf = s.inBuf := rfl
@[simp] theorem putArg0_outBuf (v : Word) : (putArg0 s v).outBuf = s.outBuf := rfl
@[simp] theorem putArg0_inputs (v : Word) : (putArg0 s v).inputs = s.inputs := rfl
@[simp] theorem putArg0_response (v : Word) : (putArg0 s v).response = s.response := rfl
@[simp] theorem putArg0_draws (v : Word) : (putArg0 s v).draws = s.draws := rfl
@[simp] theorem putArg0_inDraw (v : Word) : (putArg0 s v).inDraw = s.inDraw := rfl
@[simp] theorem putArg0_outDraw (v : Word) : (putArg0 s v).outDraw = s.outDraw := rfl
@[simp] theorem putArg0_inByte (v : Word) (j : Nat) : inByte (putArg0 s v) j = inByte s j := rfl
@[simp] theorem putArg0_outByte (v : Word) (j : Nat) : outByte (putArg0 s v) j = outByte s j := rfl

@[simp] theorem putArg1_params (v : Word) : (putArg1 s v).params = s.params := rfl
@[simp] theorem putArg1_irqEn (v : Word) : (putArg1 s v).irqEn = s.irqEn := rfl
@[simp] theorem putArg1_busy (v : Word) : (putArg1 s v).busy = s.busy := rfl
@[simp] theorem putArg1_done (v : Word) : (putArg1 s v).done = s.done := rfl
@[simp] theorem putArg1_errcode (v : Word) : (putArg1 s v).errcode = s.errcode := rfl
@[simp] theorem putArg1_werr (v : Word) : (putArg1 s v).werr = s.werr := rfl
@[simp] theorem putArg1_lastOp (v : Word) : (putArg1 s v).lastOp = s.lastOp := rfl
@[simp] theorem putArg1_inLen (v : Word) : (putArg1 s v).inLen = s.inLen := rfl
@[simp] theorem putArg1_outLen (v : Word) : (putArg1 s v).outLen = s.outLen := rfl
@[simp] theorem putArg1_result (v : Word) : (putArg1 s v).result = s.result := rfl
@[simp] theorem putArg1_result1 (v : Word) : (putArg1 s v).result1 = s.result1 := rfl
@[simp] theorem putArg1_arg0 (v : Word) : (putArg1 s v).arg0 = s.arg0 := rfl
@[simp] theorem putArg1_arg1 (v : Word) : (putArg1 s v).arg1 = v := rfl
@[simp] theorem putArg1_arg2 (v : Word) : (putArg1 s v).arg2 = s.arg2 := rfl
@[simp] theorem putArg1_inBuf (v : Word) : (putArg1 s v).inBuf = s.inBuf := rfl
@[simp] theorem putArg1_outBuf (v : Word) : (putArg1 s v).outBuf = s.outBuf := rfl
@[simp] theorem putArg1_inputs (v : Word) : (putArg1 s v).inputs = s.inputs := rfl
@[simp] theorem putArg1_response (v : Word) : (putArg1 s v).response = s.response := rfl
@[simp] theorem putArg1_draws (v : Word) : (putArg1 s v).draws = s.draws := rfl
@[simp] theorem putArg1_inDraw (v : Word) : (putArg1 s v).inDraw = s.inDraw := rfl
@[simp] theorem putArg1_outDraw (v : Word) : (putArg1 s v).outDraw = s.outDraw := rfl
@[simp] theorem putArg1_inByte (v : Word) (j : Nat) : inByte (putArg1 s v) j = inByte s j := rfl
@[simp] theorem putArg1_outByte (v : Word) (j : Nat) : outByte (putArg1 s v) j = outByte s j := rfl

@[simp] theorem putArg2_params (v : Word) : (putArg2 s v).params = s.params := rfl
@[simp] theorem putArg2_irqEn (v : Word) : (putArg2 s v).irqEn = s.irqEn := rfl
@[simp] theorem putArg2_busy (v : Word) : (putArg2 s v).busy = s.busy := rfl
@[simp] theorem putArg2_done (v : Word) : (putArg2 s v).done = s.done := rfl
@[simp] theorem putArg2_errcode (v : Word) : (putArg2 s v).errcode = s.errcode := rfl
@[simp] theorem putArg2_werr (v : Word) : (putArg2 s v).werr = s.werr := rfl
@[simp] theorem putArg2_lastOp (v : Word) : (putArg2 s v).lastOp = s.lastOp := rfl
@[simp] theorem putArg2_inLen (v : Word) : (putArg2 s v).inLen = s.inLen := rfl
@[simp] theorem putArg2_outLen (v : Word) : (putArg2 s v).outLen = s.outLen := rfl
@[simp] theorem putArg2_result (v : Word) : (putArg2 s v).result = s.result := rfl
@[simp] theorem putArg2_result1 (v : Word) : (putArg2 s v).result1 = s.result1 := rfl
@[simp] theorem putArg2_arg0 (v : Word) : (putArg2 s v).arg0 = s.arg0 := rfl
@[simp] theorem putArg2_arg1 (v : Word) : (putArg2 s v).arg1 = s.arg1 := rfl
@[simp] theorem putArg2_arg2 (v : Word) : (putArg2 s v).arg2 = v := rfl
@[simp] theorem putArg2_inBuf (v : Word) : (putArg2 s v).inBuf = s.inBuf := rfl
@[simp] theorem putArg2_outBuf (v : Word) : (putArg2 s v).outBuf = s.outBuf := rfl
@[simp] theorem putArg2_inputs (v : Word) : (putArg2 s v).inputs = s.inputs := rfl
@[simp] theorem putArg2_response (v : Word) : (putArg2 s v).response = s.response := rfl
@[simp] theorem putArg2_draws (v : Word) : (putArg2 s v).draws = s.draws := rfl
@[simp] theorem putArg2_inDraw (v : Word) : (putArg2 s v).inDraw = s.inDraw := rfl
@[simp] theorem putArg2_outDraw (v : Word) : (putArg2 s v).outDraw = s.outDraw := rfl
@[simp] theorem putArg2_inByte (v : Word) (j : Nat) : inByte (putArg2 s v) j = inByte s j := rfl
@[simp] theorem putArg2_outByte (v : Word) (j : Nat) : outByte (putArg2 s v) j = outByte s j := rfl

@[simp] theorem storeIn_params (k : Nat) (v : Word) (n : Nat) : (storeIn s k v n).params = s.params := rfl
@[simp] theorem storeIn_irqEn (k : Nat) (v : Word) (n : Nat) : (storeIn s k v n).irqEn = s.irqEn := rfl
@[simp] theorem storeIn_busy (k : Nat) (v : Word) (n : Nat) : (storeIn s k v n).busy = s.busy := rfl
@[simp] theorem storeIn_done (k : Nat) (v : Word) (n : Nat) : (storeIn s k v n).done = s.done := rfl
@[simp] theorem storeIn_errcode (k : Nat) (v : Word) (n : Nat) : (storeIn s k v n).errcode = s.errcode := rfl
@[simp] theorem storeIn_werr (k : Nat) (v : Word) (n : Nat) : (storeIn s k v n).werr = s.werr := rfl
@[simp] theorem storeIn_lastOp (k : Nat) (v : Word) (n : Nat) : (storeIn s k v n).lastOp = s.lastOp := rfl
@[simp] theorem storeIn_inLen (k : Nat) (v : Word) (n : Nat) : (storeIn s k v n).inLen = s.inLen := rfl
@[simp] theorem storeIn_outLen (k : Nat) (v : Word) (n : Nat) : (storeIn s k v n).outLen = s.outLen := rfl
@[simp] theorem storeIn_result (k : Nat) (v : Word) (n : Nat) : (storeIn s k v n).result = s.result := rfl
@[simp] theorem storeIn_result1 (k : Nat) (v : Word) (n : Nat) : (storeIn s k v n).result1 = s.result1 := rfl
@[simp] theorem storeIn_arg0 (k : Nat) (v : Word) (n : Nat) : (storeIn s k v n).arg0 = s.arg0 := rfl
@[simp] theorem storeIn_arg1 (k : Nat) (v : Word) (n : Nat) : (storeIn s k v n).arg1 = s.arg1 := rfl
@[simp] theorem storeIn_arg2 (k : Nat) (v : Word) (n : Nat) : (storeIn s k v n).arg2 = s.arg2 := rfl
@[simp] theorem storeIn_inBuf (k : Nat) (v : Word) (n : Nat) : (storeIn s k v n).inBuf = storeLanes s.inBuf k v n := rfl
@[simp] theorem storeIn_outBuf (k : Nat) (v : Word) (n : Nat) : (storeIn s k v n).outBuf = s.outBuf := rfl
@[simp] theorem storeIn_inputs (k : Nat) (v : Word) (n : Nat) : (storeIn s k v n).inputs = s.inputs := rfl
@[simp] theorem storeIn_response (k : Nat) (v : Word) (n : Nat) : (storeIn s k v n).response = s.response := rfl
@[simp] theorem storeIn_draws (k : Nat) (v : Word) (n : Nat) : (storeIn s k v n).draws = s.draws := rfl
@[simp] theorem storeIn_inDraw (k : Nat) (v : Word) (n : Nat) : (storeIn s k v n).inDraw = s.inDraw := rfl
@[simp] theorem storeIn_outDraw (k : Nat) (v : Word) (n : Nat) : (storeIn s k v n).outDraw = s.outDraw := rfl
@[simp] theorem storeIn_outByte (k : Nat) (v : Word) (n : Nat) (j : Nat) : outByte (storeIn s k v n) j = outByte s j := rfl

@[simp] theorem setInputs_params (l : List Input) : (setInputs s l).params = s.params := rfl
@[simp] theorem setInputs_irqEn (l : List Input) : (setInputs s l).irqEn = s.irqEn := rfl
@[simp] theorem setInputs_busy (l : List Input) : (setInputs s l).busy = s.busy := rfl
@[simp] theorem setInputs_done (l : List Input) : (setInputs s l).done = s.done := rfl
@[simp] theorem setInputs_errcode (l : List Input) : (setInputs s l).errcode = s.errcode := rfl
@[simp] theorem setInputs_werr (l : List Input) : (setInputs s l).werr = s.werr := rfl
@[simp] theorem setInputs_lastOp (l : List Input) : (setInputs s l).lastOp = s.lastOp := rfl
@[simp] theorem setInputs_inLen (l : List Input) : (setInputs s l).inLen = s.inLen := rfl
@[simp] theorem setInputs_outLen (l : List Input) : (setInputs s l).outLen = s.outLen := rfl
@[simp] theorem setInputs_result (l : List Input) : (setInputs s l).result = s.result := rfl
@[simp] theorem setInputs_result1 (l : List Input) : (setInputs s l).result1 = s.result1 := rfl
@[simp] theorem setInputs_arg0 (l : List Input) : (setInputs s l).arg0 = s.arg0 := rfl
@[simp] theorem setInputs_arg1 (l : List Input) : (setInputs s l).arg1 = s.arg1 := rfl
@[simp] theorem setInputs_arg2 (l : List Input) : (setInputs s l).arg2 = s.arg2 := rfl
@[simp] theorem setInputs_inBuf (l : List Input) : (setInputs s l).inBuf = s.inBuf := rfl
@[simp] theorem setInputs_outBuf (l : List Input) : (setInputs s l).outBuf = s.outBuf := rfl
@[simp] theorem setInputs_inputs (l : List Input) : (setInputs s l).inputs = l := rfl
@[simp] theorem setInputs_response (l : List Input) : (setInputs s l).response = s.response := rfl
@[simp] theorem setInputs_draws (l : List Input) : (setInputs s l).draws = s.draws := rfl
@[simp] theorem setInputs_inDraw (l : List Input) : (setInputs s l).inDraw = s.inDraw := rfl
@[simp] theorem setInputs_outDraw (l : List Input) : (setInputs s l).outDraw = s.outDraw := rfl
@[simp] theorem setInputs_inByte (l : List Input) (j : Nat) : inByte (setInputs s l) j = inByte s j := rfl
@[simp] theorem setInputs_outByte (l : List Input) (j : Nat) : outByte (setInputs s l) j = outByte s j := rfl

@[simp] theorem respondAny_params (n : Nat) : (respondAny s n).params = s.params := rfl
@[simp] theorem respondAny_irqEn (n : Nat) : (respondAny s n).irqEn = s.irqEn := rfl
@[simp] theorem respondAny_busy (n : Nat) : (respondAny s n).busy = s.busy := rfl
@[simp] theorem respondAny_done (n : Nat) : (respondAny s n).done = s.done := rfl
@[simp] theorem respondAny_errcode (n : Nat) : (respondAny s n).errcode = s.errcode := rfl
@[simp] theorem respondAny_werr (n : Nat) : (respondAny s n).werr = s.werr := rfl
@[simp] theorem respondAny_lastOp (n : Nat) : (respondAny s n).lastOp = s.lastOp := rfl
@[simp] theorem respondAny_inLen (n : Nat) : (respondAny s n).inLen = s.inLen := rfl
@[simp] theorem respondAny_outLen (n : Nat) : (respondAny s n).outLen = s.outLen := rfl
@[simp] theorem respondAny_result (n : Nat) : (respondAny s n).result = s.result := rfl
@[simp] theorem respondAny_result1 (n : Nat) : (respondAny s n).result1 = s.result1 := rfl
@[simp] theorem respondAny_arg0 (n : Nat) : (respondAny s n).arg0 = s.arg0 := rfl
@[simp] theorem respondAny_arg1 (n : Nat) : (respondAny s n).arg1 = s.arg1 := rfl
@[simp] theorem respondAny_arg2 (n : Nat) : (respondAny s n).arg2 = s.arg2 := rfl
@[simp] theorem respondAny_inBuf (n : Nat) : (respondAny s n).inBuf = s.inBuf := rfl
@[simp] theorem respondAny_outBuf (n : Nat) : (respondAny s n).outBuf = s.outBuf := rfl
@[simp] theorem respondAny_inputs (n : Nat) : (respondAny s n).inputs = s.inputs := rfl
@[simp] theorem respondAny_response (n : Nat) : (respondAny s n).response = .data (((Config.freeBusyRead s.draws).setWidth (8 * n)).setWidth 32) := rfl
@[simp] theorem respondAny_draws (n : Nat) : (respondAny s n).draws = s.draws + 1 := rfl
@[simp] theorem respondAny_inDraw (n : Nat) : (respondAny s n).inDraw = s.inDraw := rfl
@[simp] theorem respondAny_outDraw (n : Nat) : (respondAny s n).outDraw = s.outDraw := rfl
@[simp] theorem respondAny_inByte (n : Nat) (j : Nat) : inByte (respondAny s n) j = inByte s j := rfl
@[simp] theorem respondAny_outByte (n : Nat) (j : Nat) : outByte (respondAny s n) j = outByte s j := rfl

@[simp] theorem respond_params (r : Response) : (respond s r).params = s.params := rfl
@[simp] theorem respond_irqEn (r : Response) : (respond s r).irqEn = s.irqEn := rfl
@[simp] theorem respond_busy (r : Response) : (respond s r).busy = s.busy := rfl
@[simp] theorem respond_done (r : Response) : (respond s r).done = s.done := rfl
@[simp] theorem respond_errcode (r : Response) : (respond s r).errcode = s.errcode := rfl
@[simp] theorem respond_werr (r : Response) : (respond s r).werr = s.werr := rfl
@[simp] theorem respond_lastOp (r : Response) : (respond s r).lastOp = s.lastOp := rfl
@[simp] theorem respond_inLen (r : Response) : (respond s r).inLen = s.inLen := rfl
@[simp] theorem respond_outLen (r : Response) : (respond s r).outLen = s.outLen := rfl
@[simp] theorem respond_result (r : Response) : (respond s r).result = s.result := rfl
@[simp] theorem respond_result1 (r : Response) : (respond s r).result1 = s.result1 := rfl
@[simp] theorem respond_arg0 (r : Response) : (respond s r).arg0 = s.arg0 := rfl
@[simp] theorem respond_arg1 (r : Response) : (respond s r).arg1 = s.arg1 := rfl
@[simp] theorem respond_arg2 (r : Response) : (respond s r).arg2 = s.arg2 := rfl
@[simp] theorem respond_inBuf (r : Response) : (respond s r).inBuf = s.inBuf := rfl
@[simp] theorem respond_outBuf (r : Response) : (respond s r).outBuf = s.outBuf := rfl
@[simp] theorem respond_inputs (r : Response) : (respond s r).inputs = s.inputs := rfl
@[simp] theorem respond_response (r : Response) : (respond s r).response = r := rfl
@[simp] theorem respond_draws (r : Response) : (respond s r).draws = s.draws := rfl
@[simp] theorem respond_inDraw (r : Response) : (respond s r).inDraw = s.inDraw := rfl
@[simp] theorem respond_outDraw (r : Response) : (respond s r).outDraw = s.outDraw := rfl
@[simp] theorem respond_inByte (r : Response) (j : Nat) : inByte (respond s r) j = inByte s j := rfl
@[simp] theorem respond_outByte (r : Response) (j : Nat) : outByte (respond s r) j = outByte s j := rfl

@[simp] theorem resetRegisters_params : (resetRegisters s).params = s.params := rfl
@[simp] theorem resetRegisters_irqEn : (resetRegisters s).irqEn = false := rfl
@[simp] theorem resetRegisters_busy : (resetRegisters s).busy = false := rfl
@[simp] theorem resetRegisters_done : (resetRegisters s).done = false := rfl
@[simp] theorem resetRegisters_errcode : (resetRegisters s).errcode = 0#4 := rfl
@[simp] theorem resetRegisters_werr : (resetRegisters s).werr = false := rfl
@[simp] theorem resetRegisters_lastOp : (resetRegisters s).lastOp = 0#4 := rfl
@[simp] theorem resetRegisters_inLen : (resetRegisters s).inLen = 0#16 := rfl
@[simp] theorem resetRegisters_outLen : (resetRegisters s).outLen = 0#16 := rfl
@[simp] theorem resetRegisters_result : (resetRegisters s).result = 0#32 := rfl
@[simp] theorem resetRegisters_result1 : (resetRegisters s).result1 = 0#32 := rfl
@[simp] theorem resetRegisters_arg0 : (resetRegisters s).arg0 = 0#32 := rfl
@[simp] theorem resetRegisters_arg1 : (resetRegisters s).arg1 = 0#32 := rfl
@[simp] theorem resetRegisters_arg2 : (resetRegisters s).arg2 = 0#32 := rfl
@[simp] theorem resetRegisters_inBuf : (resetRegisters s).inBuf = s.inBuf := rfl
@[simp] theorem resetRegisters_outBuf : (resetRegisters s).outBuf = s.outBuf := rfl
@[simp] theorem resetRegisters_inputs : (resetRegisters s).inputs = s.inputs := rfl
@[simp] theorem resetRegisters_response : (resetRegisters s).response = s.response := rfl
@[simp] theorem resetRegisters_draws : (resetRegisters s).draws = s.draws := rfl
@[simp] theorem resetRegisters_inDraw : (resetRegisters s).inDraw = s.inDraw := rfl
@[simp] theorem resetRegisters_outDraw : (resetRegisters s).outDraw = s.outDraw := rfl
@[simp] theorem resetRegisters_inByte (j : Nat) : inByte (resetRegisters s) j = inByte s j := rfl
@[simp] theorem resetRegisters_outByte (j : Nat) : outByte (resetRegisters s) j = outByte s j := rfl

@[simp] theorem hardReset_params : (hardReset s).params = s.params := rfl
@[simp] theorem hardReset_irqEn : (hardReset s).irqEn = false := rfl
@[simp] theorem hardReset_busy : (hardReset s).busy = false := rfl
@[simp] theorem hardReset_done : (hardReset s).done = false := rfl
@[simp] theorem hardReset_errcode : (hardReset s).errcode = 0#4 := rfl
@[simp] theorem hardReset_werr : (hardReset s).werr = false := rfl
@[simp] theorem hardReset_lastOp : (hardReset s).lastOp = 0#4 := rfl
@[simp] theorem hardReset_inLen : (hardReset s).inLen = 0#16 := rfl
@[simp] theorem hardReset_outLen : (hardReset s).outLen = 0#16 := rfl
@[simp] theorem hardReset_result : (hardReset s).result = 0#32 := rfl
@[simp] theorem hardReset_result1 : (hardReset s).result1 = 0#32 := rfl
@[simp] theorem hardReset_arg0 : (hardReset s).arg0 = 0#32 := rfl
@[simp] theorem hardReset_arg1 : (hardReset s).arg1 = 0#32 := rfl
@[simp] theorem hardReset_arg2 : (hardReset s).arg2 = 0#32 := rfl
@[simp] theorem hardReset_inBuf : (hardReset s).inBuf = [] := rfl
@[simp] theorem hardReset_outBuf : (hardReset s).outBuf = [] := rfl
@[simp] theorem hardReset_inputs : (hardReset s).inputs = s.inputs := rfl
@[simp] theorem hardReset_response : (hardReset s).response = .none := rfl
@[simp] theorem hardReset_draws : (hardReset s).draws = s.draws + 1 := rfl
@[simp] theorem hardReset_inDraw : (hardReset s).inDraw = s.draws := rfl
@[simp] theorem hardReset_outDraw : (hardReset s).outDraw = s.draws := rfl

end Sys2Proof.Machine
end

