-- ==== Sys2Proof/Laws/Memory.lean ====
section
/-! SUPPORT. The buffers: read after write, writes leave other indices alone, every operation keeps the canonical form,
and a canonical buffer is determined by its reads. -/

namespace Sys2Proof.Machine

@[simp] theorem memRead_nil (k : Nat) : memRead [] k = none := rfl

/-- A read after a write to the same index gives the byte written. -/
@[simp] theorem memRead_memWrite_self (m : Memory) (k : Nat) (v : Byte) : memRead (memWrite m k v) k = some v := by
  induction m with
  | nil => simp [memWrite, memRead]
  | cons c m ih =>
    obtain ⟨a, b⟩ := c
    simp only [memWrite]
    split
    · simp [memRead]
    · split
      · simp [memRead]
      · rename_i h1 h2
        simp [memRead, h2, ih]

/-- A write leaves every other index alone. -/
theorem memRead_memWrite_ne (m : Memory) {j k : Nat} (v : Byte) (h : j ≠ k) :
    memRead (memWrite m k v) j = memRead m j := by
  induction m with
  | nil => simp [memWrite, memRead, h]
  | cons c m ih =>
    obtain ⟨a, b⟩ := c
    simp only [memWrite]
    split
    · simp [memRead, h]
    · split
      · rename_i h1 h2
        subst h2
        simp [memRead, h]
      · simp [memRead, ih]

/-- What a buffer reads after a write. -/
theorem memRead_memWrite (m : Memory) (j k : Nat) (v : Byte) :
    memRead (memWrite m k v) j = if j = k then some v else memRead m j := by
  split
  · rename_i h; subst h; simp
  · rename_i h; exact memRead_memWrite_ne m v h

theorem Memory.wf_iff (m : Memory) : Memory.wf m = true ↔ m.Pairwise fun x y => x.1 < y.1 := by
  simp [Memory.wf]

@[simp] theorem Memory.wf_nil : Memory.wf [] = true := rfl

/-- The indices of a buffer after a write are the ones before it and the one written. -/
theorem mem_memWrite {m : Memory} {k : Nat} {v : Byte} {c : Host.Cell} (h : c ∈ memWrite m k v) :
    c = (k, v) ∨ c ∈ m := by
  induction m with
  | nil => simpa [memWrite] using h
  | cons d m ih =>
    obtain ⟨a, b⟩ := d
    simp only [memWrite] at h
    split at h
    · simpa using h
    · split at h
      · rcases List.mem_cons.mp h with h | h
        · exact .inl h
        · exact .inr (List.mem_cons_of_mem _ h)
      · rcases List.mem_cons.mp h with h | h
        · exact .inr (h ▸ List.mem_cons_self)
        · exact (ih h).imp id (List.mem_cons_of_mem _)

/-- A write keeps the canonical form. -/
theorem Memory.wf_memWrite {m : Memory} (k : Nat) (v : Byte) (h : Memory.wf m = true) :
    Memory.wf (memWrite m k v) = true := by
  rw [Memory.wf_iff] at h ⊢
  induction m with
  | nil => simp [memWrite]
  | cons d m ih =>
    obtain ⟨a, b⟩ := d
    rw [List.pairwise_cons] at h
    simp only [memWrite]
    split
    · rename_i hk
      refine List.pairwise_cons.mpr ⟨?_, List.pairwise_cons.mpr h⟩
      intro c hc
      rcases List.mem_cons.mp hc with rfl | hc
      · exact hk
      · exact lt_trans hk (h.1 c hc)
    · split
      · rename_i hk
        subst hk
        exact List.pairwise_cons.mpr h
      · refine List.pairwise_cons.mpr ⟨?_, ih h.2⟩
        intro c hc
        rcases mem_memWrite hc with rfl | hc
        · show a < k; omega
        · exact h.1 c hc

/-- What the buffer of a byte string reads. -/
theorem memRead_memOfBytes (bs : List Byte) (i k : Nat) :
    memRead (memOfBytes i bs) k = if i ≤ k then bs[k - i]? else none := by
  induction bs generalizing i with
  | nil => simp [memOfBytes]
  | cons b bs ih =>
    simp only [memOfBytes, memRead]
    by_cases hk : k = i
    · subst hk; simp
    · rw [if_neg hk, ih]
      by_cases hle : i ≤ k
      · obtain ⟨d, rfl⟩ : ∃ d, k = i + 1 + d := ⟨k - (i + 1), by omega⟩
        have : i + 1 + d - i = d + 1 := by omega
        simp [this, hle]
      · rw [if_neg hle, if_neg (by omega)]

theorem memOfBytes_ge {bs : List Byte} {i : Nat} {c : Host.Cell} (h : c ∈ memOfBytes i bs) : i ≤ c.1 := by
  induction bs generalizing i with
  | nil => simp [memOfBytes] at h
  | cons b bs ih =>
    rcases List.mem_cons.mp h with rfl | h
    · exact Nat.le_refl _
    · exact Nat.le_of_succ_le (ih h)

/-- The buffer of a byte string is canonical. -/
@[simp] theorem Memory.wf_memOfBytes (bs : List Byte) (i : Nat) : Memory.wf (memOfBytes i bs) = true := by
  rw [Memory.wf_iff]
  induction bs generalizing i with
  | nil => simp [memOfBytes]
  | cons b bs ih =>
    refine List.pairwise_cons.mpr ⟨fun c hc => ?_, ih (i + 1)⟩
    exact memOfBytes_ge hc

/-- What a buffer reads after a store of `n` lanes (R64). -/
theorem memRead_storeLanes (m : Memory) (k : Nat) (v : Word) (n j : Nat) :
    memRead (storeLanes m k v n) j =
      if k ≤ j ∧ j < k + n then some (v.extractLsb' (8 * (j - k)) 8) else memRead m j := by
  induction n with
  | zero => rw [if_neg (by omega)]; rfl
  | succ n ih =>
    rw [storeLanes, memRead_memWrite, ih]
    by_cases hj : j = k + n
    · subst hj
      rw [if_pos rfl, if_pos (by omega)]
      simp
    · rw [if_neg hj]
      by_cases h : k ≤ j ∧ j < k + n
      · rw [if_pos h, if_pos (by omega)]
      · rw [if_neg h, if_neg (by omega)]

/-- A store keeps the canonical form. -/
theorem Memory.wf_storeLanes {m : Memory} (k : Nat) (v : Word) (n : Nat) (h : Memory.wf m = true) :
    Memory.wf (storeLanes m k v n) = true := by
  induction n with
  | zero => exact h
  | succ n ih => exact Memory.wf_memWrite _ _ ih

/-- The memory of the reset state has the canonical form. -/
theorem reset_memory_wf : Memory.wf State.reset.inBuf = true ∧ Memory.wf State.reset.outBuf = true := ⟨rfl, rfl⟩

theorem memRead_eq_none_of_lt {m : Memory} {k : Nat} (h : ∀ c ∈ m, k < c.1) : memRead m k = none := by
  induction m with
  | nil => rfl
  | cons c m ih =>
    obtain ⟨a, b⟩ := c
    have ha : k < a := h (a, b) List.mem_cons_self
    rw [memRead, if_neg (by omega)]
    exact ih fun c hc => h c (List.mem_cons_of_mem _ hc)

/-- Equal reads make canonical buffers equal lists. -/
theorem Memory.ext_of_wf {m m' : Memory} (h : Memory.wf m = true) (h' : Memory.wf m' = true)
    (hr : ∀ k, memRead m k = memRead m' k) : m = m' := by
  rw [Memory.wf_iff] at h h'
  induction m generalizing m' with
  | nil =>
    cases m' with
    | nil => rfl
    | cons c m' => obtain ⟨a, b⟩ := c; have := hr a; simp [memRead] at this
  | cons c m ih =>
    obtain ⟨a, b⟩ := c
    cases m' with
    | nil => have := hr a; simp [memRead] at this
    | cons c' m' =>
      obtain ⟨a', b'⟩ := c'
      rw [List.pairwise_cons] at h h'
      have hab : a = a' := by
        rcases Nat.lt_trichotomy a a' with hlt | heq | hgt
        · have := hr a
          rw [memRead, if_pos rfl, memRead_eq_none_of_lt] at this
          · simp at this
          · intro c hc
            rcases List.mem_cons.mp hc with rfl | hc
            · exact hlt
            · exact lt_trans hlt (h'.1 c hc)
        · exact heq
        · have := hr a'
          rw [memRead_eq_none_of_lt, memRead, if_pos rfl] at this
          · simp at this
          · intro c hc
            rcases List.mem_cons.mp hc with rfl | hc
            · exact hgt
            · exact lt_trans hgt (h.1 c hc)
      subst hab
      have hb : b = b' := by have := hr a; simpa [memRead] using this
      subst hb
      congr 1
      refine ih h.2 h'.2 fun k => ?_
      by_cases hk : k = a
      · subst hk
        rw [memRead_eq_none_of_lt h.1, memRead_eq_none_of_lt h'.1]
      · have := hr k
        simpa [memRead, hk] using this

end Sys2Proof.Machine
end

