-- ==== Sys2Proof/Laws/Ops.lean ====
section
/-! SUPPORT. For each shared operation, one lemma that says once all it can do; later proofs cite it and do not unfold
the operation. -/

namespace Sys2Proof.Machine

variable {s t : State}

@[simp] theorem memOfBytes_nil (k : Nat) : memOfBytes k [] = [] := rfl

/-- Making OUT unspecified is the write of no byte (R100, R211). -/
@[simp] theorem freeOut_eq (s : State) : freeOut s = writeOut s [] := rfl

/-- An OUT byte after a write of OUT: the byte of the string, or a free value of the fresh draw (R100). -/
@[simp] theorem writeOut_outByte (s : State) (w : List Byte) (k : Nat) :
    outByte (writeOut s w) k = (w[k]?).getD (Config.freeOutByte s.draws k) := by
  simp [outByte, memRead_memOfBytes]

/-- An OUT byte after a command's output (R116 to R118). -/
@[simp] theorem putOutput_outByte (s : State) (w : List Byte) (r r1 : Word) (k : Nat) :
    outByte (putOutput s w r r1) k = (w[k]?).getD (Config.freeOutByte s.draws k) := by
  simp [outByte, memRead_memOfBytes]

/-- Every OUT byte is a free value of the fresh draw after an output is discarded (R100). -/
@[simp] theorem discardOutput_outByte (s : State) (r r1 : Word) (k : Nat) :
    outByte (discardOutput s r r1) k = Config.freeOutByte s.draws k := by
  simp [discardOutput]

/-- What the completion bookkeeping says (R163). -/
theorem complete_completedWith (s : State) (c : ErrCode) : CompletedWith c (complete s c) := ⟨rfl, rfl, rfl⟩

theorem succeed_eq (s : State) : succeed s = .next (complete s .ok) := rfl

theorem raiseCmdError_eq (s : State) (c : ErrCode) : raiseCmdError s c = .next (complete s c) := rfl

/-- A completion step that writes nothing but STATUS (R100, R165, R166). -/
theorem complete_onlyStatus (s : State) (c : ErrCode) : OnlyStatus c s (complete s c) where
  completed := complete_completedWith s c
  host := by constructor <;> simp
  output := by constructor <;> simp
  results := by constructor <;> simp

/-- Writing an output leaves the host's side alone (R36). -/
theorem putOutput_sameHostSide (s : State) (w : List Byte) (r r1 : Word) (c : ErrCode) :
    SameHostSide s (complete (putOutput s w r r1) c) := by
  constructor <;> simp

/-- Writing the results leaves the host's side alone (R36). -/
theorem setResults_sameHostSide (s : State) (r r1 : Word) (c : ErrCode) :
    SameHostSide s (complete (setResults s r r1) c) := by
  constructor <;> simp

/-- Writing the results leaves OUT and OUT_LEN alone (R115, R119, R143, R144). -/
theorem setResults_sameOutput (s : State) (r r1 : Word) (c : ErrCode) :
    SameOutput s (complete (setResults s r r1) c) := by
  constructor <;> simp

/-- A string whose length fits OUT_LEN is what OUT holds after it is output (R116 to R118). -/
theorem putOutput_outputIs (s : State) (w : List Byte) (r r1 : Word) (c : ErrCode) (h : w.length < 65536) :
    OutputIs w (complete (putOutput s w r r1) c) where
  outLen := by simp [BitVec.toNat_ofNat, Nat.mod_eq_of_lt h]
  bytes k hk := by simp [hk]
  beyond k hk := by simp [memRead_memOfBytes, hk]

/-- OUT holds nothing specified after an output is discarded (R100). -/
theorem discardOutput_outputIs (s : State) (r r1 : Word) (c : ErrCode) :
    OutputIs [] (complete (discardOutput s r r1) c) :=
  putOutput_outputIs s [] r r1 c (by simp)

/-- All a command that reads IN can do first: LEN_RANGE, or its body (R100). -/
theorem withInput_eq_body {body : Host.Outcome State Fault Refusal} (h : s.inLen.toNat ≤ s.params.inCap) :
    withInput s body = body := by
  simp [withInput, lenOutOfRange, Nat.not_lt.mpr h]

theorem withInput_eq_lenRange {body : Host.Outcome State Fault Refusal} (h : s.params.inCap < s.inLen.toNat) :
    withInput s body = .next (complete s .lenRange) := by
  simp [withInput, lenOutOfRange, h, raiseCmdError]

theorem withInput_cases {body : Host.Outcome State Fault Refusal} (h : withInput s body = .next t) :
    (s.params.inCap < s.inLen.toNat ∧ t = complete s .lenRange) ∨
      (s.inLen.toNat ≤ s.params.inCap ∧ body = .next t) := by
  by_cases hl : s.params.inCap < s.inLen.toNat
  · rw [withInput_eq_lenRange hl] at h
    cases h
    exact .inl ⟨hl, rfl⟩
  · rw [withInput_eq_body (by omega)] at h
    exact .inr ⟨by omega, h⟩

@[simp] theorem inBytes_length (s : State) (n : Nat) : (inBytes s n).length = n := by simp [inBytes]

@[simp] theorem inString_length (s : State) : (inString s).length = s.inLen.toNat := by simp [inString]

/-- The IN string depends on IN_LEN and the IN bytes below it only (R81). -/
theorem inString_congr (hl : s.inLen = t.inLen) (hb : ∀ k, k < s.inLen.toNat → inByte s k = inByte t k) :
    inString s = inString t := by
  unfold inString inBytes
  rw [hl] at hb ⊢
  exact List.map_congr_left fun k hk => hb k (List.mem_range.mp hk)

/-- The whole soft reset, register by register and buffer by buffer (R212). -/
theorem softReset_eq (s : State) :
    softReset s = if s.busy then resetRegisters (freeOut s) else resetRegisters s := by
  unfold softReset; split <;> rfl

/-- The soft reset keeps IN (R212). -/
@[simp] theorem softReset_inByte (s : State) (k : Nat) : inByte (softReset s) k = inByte s k := by
  rw [softReset_eq]; split <;> rfl

@[simp] theorem softReset_params (s : State) : (softReset s).params = s.params := by
  rw [softReset_eq]; split <;> rfl

@[simp] theorem softReset_inputs (s : State) : (softReset s).inputs = s.inputs := by
  rw [softReset_eq]; split <;> rfl

/-- A write to CTRL: the soft reset, or IRQ_EN alone (R24). -/
theorem writeCtrl_cases (s : State) (v : Word) :
    (v.getLsbD 1 = true ∧ writeCtrl s v = softReset s) ∨
      (v.getLsbD 1 = false ∧ writeCtrl s v = putIrqEn s (v.getLsbD 0)) := by
  unfold writeCtrl
  cases h : v.getLsbD 1
  · exact .inr ⟨rfl, rfl⟩
  · refine .inl ⟨rfl, ?_⟩
    rw [if_pos rfl, softReset_eq, softReset_eq, putIrqEn_busy]
    split <;> rfl

/-- The decode of an access, region by region (R61). -/
theorem decodeAccess_cases (p : Params) (off : Nat) (z : Size) :
    (∃ r, decodeAccess p off z = some (.register r) ∧ z = .four ∧ off < 0x3C ∧ regAt off = some r) ∨
      (decodeAccess p off z = some (.inWindow (off - 0x4000)) ∧ off % sizeBytes z = 0 ∧ 0x4000 ≤ off ∧
        off + sizeBytes z ≤ 0x4000 + p.inCap) ∨
      (decodeAccess p off z = some (.outWindow (off - 0x8000)) ∧ off % sizeBytes z = 0 ∧ 0x8000 ≤ off ∧
        off + sizeBytes z ≤ 0x8000 + p.outCap) ∨
      decodeAccess p off z = none := by
  unfold decodeAccess inBase outBase
  split
  · exact .inr (.inr (.inr rfl))
  · rename_i hal
    split
    · rename_i hlt
      split
      · rename_i hz
        subst hz
        cases hr : regAt off with
        | none => exact .inr (.inr (.inr rfl))
        | some r => exact .inl ⟨r, rfl, rfl, hlt, rfl⟩
      · exact .inr (.inr (.inr rfl))
    · split
      · rename_i h
        exact .inr (.inl ⟨rfl, by omega, h.1, h.2⟩)
      · split
        · rename_i h
          exact .inr (.inr (.inl ⟨rfl, by omega, h.1, h.2⟩))
        · exact .inr (.inr (.inr rfl))

/-- All a host read can do: the response, and one free draw where the read returns ANY (R39, R66). -/
theorem busRead_cases (s : State) (off : Nat) (z : Size) :
    (∃ r, busRead s off z = respond s r) ∨ (s.busy = true ∧ busRead s off z = respondAny s (sizeBytes z)) := by
  unfold busRead
  split
  · exact .inl ⟨_, rfl⟩
  · split
    · rename_i h
      exact .inr ⟨by simpa using (Bool.and_eq_true_iff.mp h).1, rfl⟩
    · exact .inl ⟨_, rfl⟩
  · exact .inl ⟨_, rfl⟩
  · split
    · exact .inr ⟨by assumption, rfl⟩
    · exact .inl ⟨_, rfl⟩

/-- All a host write can do (R24 to R33, R64, R66, R76, R184). -/
theorem busWrite_cases (s : State) (off : Nat) (z : Size) (v : Word) :
    busWrite s off z v = busError s off ∨
      busWrite s off z v = respond s .accepted ∨
      (s.busy = true ∧ busWrite s off z v = respond (dropLockedWrite s) .accepted) ∨
      (z = .four ∧ off = 0x004 ∧ busWrite s off z v = respond (writeCtrl s v) .accepted) ∨
      (z = .four ∧ off = 0x008 ∧ busWrite s off z v = respond (writeStatus s v) .accepted) ∨
      (z = .four ∧ off = 0x00C ∧ s.busy = false ∧ busWrite s off z v = respond (issue s v) .accepted) ∨
      (z = .four ∧ off = 0x010 ∧ s.busy = false ∧
        busWrite s off z v = respond (putInLen s v) .accepted) ∨
      (z = .four ∧ off = 0x020 ∧ s.busy = false ∧ busWrite s off z v = respond (putArg0 s v) .accepted) ∨
      (z = .four ∧ off = 0x024 ∧ s.busy = false ∧ busWrite s off z v = respond (putArg1 s v) .accepted) ∨
      (z = .four ∧ off = 0x028 ∧ s.busy = false ∧ busWrite s off z v = respond (putArg2 s v) .accepted) ∨
      (s.busy = false ∧ 0x4000 ≤ off ∧ off + sizeBytes z ≤ 0x4000 + s.params.inCap ∧
        busWrite s off z v =
          respond (storeIn s (off - 0x4000) v (sizeBytes z)) .accepted) := by
  rcases decodeAccess_cases s.params off z with ⟨r, hd, rfl, hlt, hr⟩ | ⟨hd, -, h1, h2⟩ | ⟨hd, -⟩ | hd
  · have hw : busWrite s off .four v =
        respond (if s.busy && lockedReg r then dropLockedWrite s else writeReg s r v) .accepted := by
      unfold busWrite; rw [hd]
    have hoff : (r = .ctrl → off = 0x004) ∧ (r = .status → off = 0x008) ∧ (r = .cmd → off = 0x00C) ∧
        (r = .inLen → off = 0x010) ∧ (r = .arg0 → off = 0x020) ∧ (r = .arg1 → off = 0x024) ∧
        (r = .arg2 → off = 0x028) := by
      unfold regAt at hr
      split at hr <;> cases hr <;> simp
    rw [hw]
    cases hb : s.busy <;> cases r <;> simp [lockedReg, writeReg, hoff]
  · unfold busWrite
    rw [hd]
    cases hb : s.busy
    · simp [h1, h2]
    · simp
  · refine .inr (.inl ?_)
    unfold busWrite; rw [hd]
  · refine .inl ?_
    unfold busWrite; rw [hd]

end Sys2Proof.Machine
end

