-- ==== Sys2Proof/Laws/Exec.lean ====
section
/-! SUPPORT. For each command, all its completion step can do, said once (spec/42_sequencer.md R162), and what holds of
every command. -/

namespace Sys2Proof.Machine

variable {s t : State}

theorem execNop_eq (s : State) : execNop s = .next (complete s .ok) := rfl

theorem execReserved_eq (op : Opcode) (s : State) : execReserved op s = .next (complete s .badOp) := rfl

theorem execU32pack_eq (s : State) :
    execU32pack s = .next (complete (putOutput s (be32 s.arg0) s.arg0 0#32) .ok) := rfl

theorem execCrc32_cases (h : execCrc32 s = .next t) :
    (s.params.inCap < s.inLen.toNat ∧ t = complete s .lenRange) ∨
      (s.inLen.toNat ≤ s.params.inCap ∧ t = complete (setResults s (crc32 (inString s)) 0#32) .ok) := by
  refine (withInput_cases h).imp id (And.imp_right fun h => ?_)
  cases h; rfl

theorem execNetsum_cases (h : execNetsum s = .next t) :
    (s.params.inCap < s.inLen.toNat ∧ t = complete s .lenRange) ∨
      (s.inLen.toNat ≤ s.params.inCap ∧
        t = complete (setResults s ((netChecksum (inString s)).setWidth 32) 0#32) .ok) := by
  refine (withInput_cases h).imp id (And.imp_right fun h => ?_)
  cases h; rfl

theorem execNetsumPh_cases (h : execNetsumPh s = .next t) :
    (s.params.inCap < s.inLen.toNat ∧ t = complete s .lenRange) ∨
      (s.inLen.toNat ≤ s.params.inCap ∧
        t = complete (setResults s ((netChecksum (pseudoHeader s ++ inString s)).setWidth 32) 0#32) .ok) := by
  refine (withInput_cases h).imp id (And.imp_right fun h => ?_)
  cases h; rfl

theorem execU32unpack_cases (h : execU32unpack s = .next t) :
    (s.params.inCap < s.inLen.toNat ∧ t = complete s .lenRange) ∨
      (s.inLen.toNat ≤ s.params.inCap ∧ s.inLen.toNat < 4 ∧ t = complete (setResults s 0#32 0#32) .tooShort) ∨
      (s.inLen.toNat ≤ s.params.inCap ∧ 4 ≤ s.inLen.toNat ∧
        t = complete (setResults s (u32be (inBytes s 4)) 0#32) .ok) := by
  refine (withInput_cases h).imp id fun ⟨hl, h⟩ => ?_
  split at h <;> cases h
  · exact .inl ⟨hl, by assumption, rfl⟩
  · exact .inr ⟨hl, by omega, rfl⟩

/-- FRAME is FRAME with the pair that the parameters name, its wire written with `frame`. -/
theorem execFrame_eq (s : State) : execFrame s = withInput s
    (if s.params.outCap < (frame s.params (inString s)).length then
      raiseCmdError (discardOutput s 0#32 0#32) .outOverflow
    else succeed (putOutput s (frame s.params (inString s)) (crc32 (inString s)) 0#32)) := rfl

/-- DEFRAME is DEFRAME with the pair that the parameters name, its result written with `deframe`. -/
theorem execDeframe_eq (s : State) : execDeframe s = withInput s
    (match deframe s.params (inString s) with
    | .tooShort => raiseCmdError (discardOutput s 0#32 0#32) .tooShort
    | .badChecksum computed received => raiseCmdError (discardOutput s computed received) .badChecksum
    | .ok payload computed =>
      if s.params.outCap < payload.length then raiseCmdError (discardOutput s 0#32 0#32) .outOverflow
      else succeed (putOutput s payload computed computed)) := rfl

theorem execFrame_cases (h : execFrame s = .next t) :
    (s.params.inCap < s.inLen.toNat ∧ t = complete s .lenRange) ∨
      (s.inLen.toNat ≤ s.params.inCap ∧ s.params.outCap < (frame s.params (inString s)).length ∧
        t = complete (discardOutput s 0#32 0#32) .outOverflow) ∨
      (s.inLen.toNat ≤ s.params.inCap ∧ (frame s.params (inString s)).length ≤ s.params.outCap ∧
        t = complete (putOutput s (frame s.params (inString s)) (crc32 (inString s)) 0#32) .ok) := by
  rw [execFrame_eq] at h
  refine (withInput_cases h).imp id fun ⟨hl, h⟩ => ?_
  split at h <;> cases h
  · exact .inl ⟨hl, by assumption, rfl⟩
  · exact .inr ⟨hl, by omega, rfl⟩

theorem execDeframe_cases (h : execDeframe s = .next t) :
    (s.params.inCap < s.inLen.toNat ∧ t = complete s .lenRange) ∨
      (s.inLen.toNat ≤ s.params.inCap ∧ deframe s.params (inString s) = .tooShort ∧
        t = complete (discardOutput s 0#32 0#32) .tooShort) ∨
      (∃ cc rc, s.inLen.toNat ≤ s.params.inCap ∧ deframe s.params (inString s) = .badChecksum cc rc ∧
        t = complete (discardOutput s cc rc) .badChecksum) ∨
      (∃ p cc, s.inLen.toNat ≤ s.params.inCap ∧ deframe s.params (inString s) = .ok p cc ∧
        s.params.outCap < p.length ∧ t = complete (discardOutput s 0#32 0#32) .outOverflow) ∨
      (∃ p cc, s.inLen.toNat ≤ s.params.inCap ∧ deframe s.params (inString s) = .ok p cc ∧
        p.length ≤ s.params.outCap ∧ t = complete (putOutput s p cc cc) .ok) := by
  rw [execDeframe_eq] at h
  refine (withInput_cases h).imp id fun ⟨hl, h⟩ => ?_
  cases hd : deframe s.params (inString s) with
  | tooShort => rw [hd] at h; cases h; exact .inl ⟨hl, rfl, rfl⟩
  | badChecksum cc rc => rw [hd] at h; cases h; exact .inr (.inl ⟨cc, rc, hl, rfl, rfl⟩)
  | ok p cc =>
    rw [hd] at h
    dsimp only at h
    split at h <;> cases h
    · exact .inr (.inr (.inl ⟨p, cc, hl, rfl, by assumption, rfl⟩))
    · exact .inr (.inr (.inr ⟨p, cc, hl, rfl, by omega, rfl⟩))

/-- All a completion step can do, whatever the command: nothing but STATUS, or the results, or an output that fits
OUT_CAP (R36, R162). -/
theorem exec_cases {i : Instr} (h : exec i s = .next t) :
    (∃ c, t = complete s c) ∨
      (∃ r r1 c, readsIn i = true ∧ t = complete (setResults s r r1) c) ∨
      (∃ w r r1 c, writesOut i = true ∧ (w.length ≤ s.params.outCap ∨ (i = .u32pack ∧ w = be32 s.arg0)) ∧
        t = complete (putOutput s w r r1) c) := by
  cases i with
  | nop => cases h; exact .inl ⟨.ok, rfl⟩
  | reserved op => cases h; exact .inl ⟨.badOp, rfl⟩
  | u32pack => cases h; exact .inr (.inr ⟨_, _, _, _, rfl, .inr ⟨rfl, rfl⟩, rfl⟩)
  | crc32 =>
    rcases execCrc32_cases h with ⟨-, rfl⟩ | ⟨-, rfl⟩
    · exact .inl ⟨_, rfl⟩
    · exact .inr (.inl ⟨_, _, _, rfl, rfl⟩)
  | netsum =>
    rcases execNetsum_cases h with ⟨-, rfl⟩ | ⟨-, rfl⟩
    · exact .inl ⟨_, rfl⟩
    · exact .inr (.inl ⟨_, _, _, rfl, rfl⟩)
  | netsumPh =>
    rcases execNetsumPh_cases h with ⟨-, rfl⟩ | ⟨-, rfl⟩
    · exact .inl ⟨_, rfl⟩
    · exact .inr (.inl ⟨_, _, _, rfl, rfl⟩)
  | u32unpack =>
    rcases execU32unpack_cases h with ⟨-, rfl⟩ | ⟨-, -, rfl⟩ | ⟨-, -, rfl⟩
    · exact .inl ⟨_, rfl⟩
    · exact .inr (.inl ⟨_, _, _, rfl, rfl⟩)
    · exact .inr (.inl ⟨_, _, _, rfl, rfl⟩)
  | frame =>
    rcases execFrame_cases h with ⟨-, rfl⟩ | ⟨-, -, rfl⟩ | ⟨-, hw, rfl⟩
    · exact .inl ⟨_, rfl⟩
    · exact .inr (.inr ⟨[], _, _, _, rfl, .inl (Nat.zero_le _), rfl⟩)
    · exact .inr (.inr ⟨_, _, _, _, rfl, .inl hw, rfl⟩)
  | deframe =>
    rcases execDeframe_cases h with ⟨-, rfl⟩ | ⟨-, -, rfl⟩ | ⟨cc, rc, -, -, rfl⟩ | ⟨p, cc, -, -, -, rfl⟩ |
      ⟨p, cc, -, -, hp, rfl⟩
    · exact .inl ⟨_, rfl⟩
    · exact .inr (.inr ⟨[], _, _, _, rfl, .inl (Nat.zero_le _), rfl⟩)
    · exact .inr (.inr ⟨[], _, _, _, rfl, .inl (Nat.zero_le _), rfl⟩)
    · exact .inr (.inr ⟨[], _, _, _, rfl, .inl (Nat.zero_le _), rfl⟩)
    · exact .inr (.inr ⟨p, _, _, _, rfl, .inl hp, rfl⟩)

/-- The machine with the pair that the parameters name is the machine: the two ways of giving RADIX_CODEC agree (R5). -/
theorem execWith_codecOf (i : Instr) (s : State) : execWith (codecOf s.params) i s = exec i s := by cases i <;> rfl

theorem engineTurnBy_congr {ex ex' : Executor} (h : ∀ i, ex i s = ex' i s) : engineTurnBy ex s = engineTurnBy ex' s := by
  unfold engineTurnBy; rw [h]

theorem step_eq_stepWith (s : State) : step s = stepWith (codecOf s.params) s := by
  unfold step stepWith stepBy
  split
  · exact engineTurnBy_congr fun i => (execWith_codecOf i s).symm
  · rename_i i rest _
    cases i with
    | complete => exact engineTurnBy_congr fun i => (execWith_codecOf i (setInputs s rest)).symm
    | read | write | hardReset => rfl

/-- What `takeInputBy` does with an access that lies in the window, and outside it (R60). -/
theorem atOffset_cases {addr : Nat} {f : Nat → State} (h : atOffset s addr f = .next t) :
    ∃ off, unitOffset s.params addr = some off ∧ t = f off := by
  unfold atOffset at h
  split at h
  · cases h; exact ⟨_, by assumption, rfl⟩
  · cases h

/-- All the ENGINE's turn can do (R38, R162). -/
theorem engineTurn_cases (h : engineTurn s = .next t) :
    (s.busy = false ∧ t = s) ∨ (s.busy = true ∧ exec (latched s) s = .next t) := by
  unfold engineTurn engineTurnBy at h
  split at h
  · exact .inr ⟨by assumption, h⟩
  · cases h; exact .inl ⟨by simpa using ‹¬s.busy = true›, rfl⟩

/-- All a step can do: the ENGINE's turn, the reset input, a host read or a host write (R9). -/
theorem step_cases (h : step s = .next t) :
    (s.inputs = [] ∧ engineTurn s = .next t) ∨
      (∃ rest, s.inputs = .complete :: rest ∧ engineTurn (setInputs s rest) = .next t) ∨
      (∃ rest, s.inputs = .hardReset :: rest ∧ t = hardReset (setInputs s rest)) ∨
      (∃ rest addr z off, s.inputs = .read addr z :: rest ∧ unitOffset s.params addr = some off ∧
        t = busRead (setInputs s rest) off z) ∨
      (∃ rest addr z v off, s.inputs = .write addr z v :: rest ∧ unitOffset s.params addr = some off ∧
        t = busWrite (setInputs s rest) off z v) := by
  unfold step stepBy at h
  split at h
  · exact .inl ⟨by assumption, h⟩
  · rename_i i rest hi
    refine .inr ?_
    cases i with
    | complete => exact .inl ⟨rest, hi, h⟩
    | hardReset => cases h; exact .inr (.inl ⟨rest, hi, rfl⟩)
    | read addr z =>
      obtain ⟨off, ho, rfl⟩ := atOffset_cases h
      exact .inr (.inr (.inl ⟨rest, addr, z, off, hi, ho, rfl⟩))
    | write addr z v =>
      obtain ⟨off, ho, rfl⟩ := atOffset_cases h
      exact .inr (.inr (.inr ⟨rest, addr, z, v, off, hi, ho, rfl⟩))

/-- Every completion step answers a next state (R180). -/
theorem exec_next (i : Instr) (s : State) : ∃ t, exec i s = .next t := by
  by_cases hl : s.params.inCap < s.inLen.toNat
  · cases i <;> first | exact ⟨_, rfl⟩ | exact ⟨_, withInput_eq_lenRange hl⟩
  · have hl : s.inLen.toNat ≤ s.params.inCap := by omega
    cases i with
    | frame =>
      show ∃ t, execFrame s = .next t
      rw [execFrame_eq, withInput_eq_body hl]
      split <;> exact ⟨_, rfl⟩
    | deframe =>
      show ∃ t, execDeframe s = .next t
      rw [execDeframe_eq, withInput_eq_body hl]
      split
      · exact ⟨_, rfl⟩
      · exact ⟨_, rfl⟩
      · split <;> exact ⟨_, rfl⟩
    | u32unpack =>
      show ∃ t, execU32unpack s = .next t
      rw [execU32unpack, withInput_eq_body hl]
      split <;> exact ⟨_, rfl⟩
    | crc32 => exact ⟨_, withInput_eq_body hl⟩
    | netsum => exact ⟨_, withInput_eq_body hl⟩
    | netsumPh => exact ⟨_, withInput_eq_body hl⟩
    | nop => exact ⟨_, rfl⟩
    | u32pack => exact ⟨_, rfl⟩
    | reserved op => exact ⟨_, rfl⟩

end Sys2Proof.Machine
end

