-- ==== Sys2Proof/Laws/Codec.lean ====
section
/-! SUPPORT. The radix conversion in the library's terms (Nat.digits, Nat.ofDigits), the byte strings as numbers, and one
lemma for each pure function of the codec that says what it computes. -/

namespace Sys2Proof.Machine

/-- The digits of `toBase`, least significant first, are the library's, given fuel enough. -/
theorem digitsUpTo_eq {b : Nat} (hb : 1 < b) (fuel v : Nat) (h : v < 2 ^ fuel) : digitsUpTo fuel b v = Nat.digits b v := by
  induction fuel generalizing v with
  | zero =>
    have : v = 0 := by simpa using h
    subst this; simp [digitsUpTo]
  | succ fuel ih =>
    rw [digitsUpTo]
    split
    · rename_i h0; subst h0; simp
    · rename_i h0
      have hv : v / b < 2 ^ fuel := by
        have h2 : v / b ≤ v / 2 := Nat.div_le_div_left hb (by decide)
        have h3 : v / 2 < 2 ^ fuel := Nat.div_lt_of_lt_mul (by rw [pow_succ'] at h; exact h)
        omega
      rw [ih _ hv, Nat.digits_def' hb (Nat.pos_of_ne_zero h0)]

/-- `toBase` is the library's digits, most significant first. -/
theorem toBase_eq_digits {b : Nat} (hb : 1 < b) (v : Nat) : toBase b v = (Nat.digits b v).reverse := by
  rw [toBase, digitsUpTo_eq hb]
  exact Nat.lt_log2_self

theorem foldl_radix (b acc : Nat) (ds : List Nat) :
    ds.foldl (fun acc d => acc * b + d) acc = acc * b ^ ds.length + Nat.ofDigits b ds.reverse := by
  induction ds generalizing acc with
  | nil => simp
  | cons d ds ih =>
    rw [List.foldl_cons, ih, List.reverse_cons, Nat.ofDigits_append]
    simp [pow_succ]
    ring

/-- `ofBase` is the library's value of digits. -/
theorem ofBase_eq_ofDigits (b : Nat) (ds : List Nat) : ofBase b ds = Nat.ofDigits b ds.reverse := by
  rw [ofBase, foldl_radix]; simp

/-- The number of a byte string is the library's value of its bytes in base 256. -/
theorem beNat_eq_ofDigits (bs : List Byte) : beNat bs = Nat.ofDigits 256 (bs.map BitVec.toNat).reverse := by
  have : beNat bs = ofBase 256 (bs.map BitVec.toNat) := by simp [beNat, ofBase, List.foldl_map]
  rw [this, ofBase_eq_ofDigits]

/-- A byte string of n bytes is a number below 256^n. -/
theorem beNat_lt (bs : List Byte) : beNat bs < 256 ^ bs.length := by
  rw [beNat_eq_ofDigits]
  have := Nat.ofDigits_lt_base_pow_length (b := 256) (l := (bs.map BitVec.toNat).reverse) (by decide)
    (by simp only [List.mem_reverse, List.mem_map]; rintro x ⟨y, -, rfl⟩; exact y.isLt)
  simpa using this

theorem toRadix_sentinel {p : Params} (h : p.codec = .sentinel) (t : List Byte) :
    toRadix p t = toBase (reducedBase p) (256 ^ t.length + beNat t) := by
  simp [toRadix, codecOf, h, sentinelPair, sentinelToRadix]

theorem fromRadix_sentinel {p : Params} (h : p.codec = .sentinel) (ds : List Nat) :
    fromRadix p ds = ((toBase 256 (ofBase (reducedBase p) ds)).map (BitVec.ofNat 8)).tail := by
  simp [fromRadix, codecOf, h, sentinelPair, sentinelFromRadix]

/-- What well-formed parameters say of a substitute: it is a pair that meets the laws (R5, R106). -/
theorem codecOf_substitute {p : Params} {id : Nat} (h : p.wf = true) (hc : p.codec = .substitute id) :
    ∃ c, Config.substitutePair id (reducedBase p) = some c ∧ codecOf p = c.val := by
  have hw : (Config.substitutePair id (reducedBase p)).isSome = true := by
    simp only [Params.wf, Bool.and_eq_true] at h
    simpa [codecWf, hc, reducedBase, reservedCount] using h.2
  obtain ⟨c, hc'⟩ := Option.isSome_iff_exists.mp hw
  exact ⟨c, hc', by rw [codecOf, hc]; simp only [hc']⟩

/-- What well-formed parameters say of R and B (R5, R6). -/
theorem wf_base {p : Params} (h : p.wf = true) :
    1 ≤ p.reserved.length ∧ p.reserved.length ≤ 4 ∧ reducedBase p + p.reserved.length = 256 ∧
      252 ≤ reducedBase p ∧ reducedBase p ≤ 255 := by
  have : 1 ≤ p.reserved.length ∧ p.reserved.length ≤ 4 := by
    simp only [Params.wf, reservedWf, Bool.and_eq_true, decide_eq_true_eq] at h
    exact ⟨h.1.2.1.1.1.1, h.1.2.1.1.1.2⟩
  refine ⟨this.1, this.2, ?_, ?_, ?_⟩ <;> rw [reducedBase, reservedCount] <;> omega

/-- What well-formed parameters say of the capacities (R5). -/
theorem wf_caps {p : Params} (h : p.wf = true) :
    4 ≤ p.inCap ∧ p.inCap ≤ 16384 ∧ 6 ≤ p.outCap ∧ p.outCap ≤ 16384 := by
  simp only [Params.wf, Bool.and_eq_true, decide_eq_true_eq] at h
  omega

/-- The substitutes of a list of reserved values, by index (R6, R107). -/
theorem mem_substitutes {base i : Nat} {rs : List Byte} {b : Byte} :
    b ∈ substitutes base i rs ↔ ∃ j r, rs[j]? = some r ∧ r.toNat < base ∧ b = BitVec.ofNat 8 (base + (i + j)) := by
  induction rs generalizing i with
  | nil => simp [substitutes]
  | cons r rs ih =>
    have hstep : (∃ j r', (r :: rs)[j]? = some r' ∧ r'.toNat < base ∧ b = BitVec.ofNat 8 (base + (i + j))) ↔
        ((r.toNat < base ∧ b = BitVec.ofNat 8 (base + i)) ∨
          ∃ j r', rs[j]? = some r' ∧ r'.toNat < base ∧ b = BitVec.ofNat 8 (base + (i + 1 + j))) := by
      constructor
      · rintro ⟨j, r', h1, h2, h3⟩
        cases j with
        | zero => simp at h1; subst h1; exact .inl ⟨h2, h3⟩
        | succ j => exact .inr ⟨j, r', by simpa using h1, h2, by rw [h3]; congr 2; omega⟩
      · rintro (⟨h2, h3⟩ | ⟨j, r', h1, h2, h3⟩)
        · exact ⟨0, r, rfl, h2, h3⟩
        · exact ⟨j + 1, r', by simpa using h1, h2, by rw [h3]; congr 2; omega⟩
    rw [hstep, substitutes]
    split
    · rename_i h; simp [ih, h]
    · rename_i h; simp [ih, h]

end Sys2Proof.Machine
end

