-- ==== Sys2Proof/Laws/Lanes.lean ====
section
/-! SUPPORT. Byte lanes and command words as numbers, and their round trips (spec/20_memory.md R64,
spec/30_encoding.md R80, spec/40_framing.md R102). -/

namespace Sys2Proof.Machine

/-- Bytes put side by side, as a number. -/
theorem append4_toNat (a b c d : Byte) :
    (a ++ b ++ c ++ d).toNat = a.toNat * 2 ^ 24 + b.toNat * 2 ^ 16 + c.toNat * 2 ^ 8 + d.toNat := by
  have := a.isLt; have := b.isLt; have := c.isLt; have := d.isLt
  simp only [BitVec.toNat_append]
  rw [← Nat.shiftLeft_add_eq_or_of_lt (by omega), ← Nat.shiftLeft_add_eq_or_of_lt (by omega),
    ← Nat.shiftLeft_add_eq_or_of_lt (by omega)]
  simp only [Nat.shiftLeft_eq]
  omega

/-- A data word from its lanes, as a number (R64). -/
theorem wordOfLanes_toNat (b0 b1 b2 b3 : Byte) :
    (wordOfLanes b0 b1 b2 b3).toNat = b3.toNat * 2 ^ 24 + b2.toNat * 2 ^ 16 + b1.toNat * 2 ^ 8 + b0.toNat :=
  append4_toNat b3 b2 b1 b0

/-- The lanes of a data word put together again (R64). -/
theorem wordOfLanes_lanes (w : Word) :
    wordOfLanes (w.extractLsb' 0 8) (w.extractLsb' 8 8) (w.extractLsb' 16 8) (w.extractLsb' 24 8) = w := by
  apply BitVec.eq_of_toNat_eq
  have := w.isLt
  simp only [wordOfLanes_toNat, BitVec.extractLsb'_toNat, Nat.shiftRight_eq_div_pow]
  omega

/-- The decoder reads the command of a word from the word's lanes, and leaves the bytes after them (R80). -/
theorem decode_lanes (w : Word) (rest : List Byte) : decode (lanesOfWord w ++ rest) = .ok (decodeWord w, rest) := by
  simp only [lanesOfWord, List.cons_append, List.nil_append, decode, wordOfLanes_lanes]

/-- `u32be` of four bytes puts them side by side (R102). -/
theorem u32be_four (a b c d : Byte) : u32be [a, b, c, d] = a ++ b ++ c ++ d := by
  apply BitVec.eq_of_toNat_eq
  have := a.isLt; have := b.isLt; have := c.isLt; have := d.isLt
  rw [append4_toNat]
  simp only [u32be, beNat, List.foldl, BitVec.toNat_ofNat]
  omega

/-- The opcode field as a number (R80). -/
theorem opField_toNat (w : Word) : (opField w).toNat = w.toNat % 16 := by
  simp [opField, BitVec.extractLsb'_toNat]

/-- The opcode field, as the mask of R82 takes it. -/
theorem opField_mask (w : Word) : w &&& 0xF#32 = (opField w).setWidth 32 := by
  apply BitVec.eq_of_toNat_eq
  have h : w.toNat &&& 15 = w.toNat % 16 := Nat.and_two_pow_sub_one_eq_mod w.toNat 4
  have := (opField w).isLt
  simp only [BitVec.toNat_and, BitVec.toNat_setWidth, opField_toNat, BitVec.toNat_ofNat]
  rw [show 0xF % 2 ^ 32 = 15 from rfl, h]
  omega

end Sys2Proof.Machine
end

