-- ==== Sys2Proof/Laws/Bus.lean ====
section
/-! SUPPORT. The slave port access by access: what the decode answers at each kind of offset, and with it what a read and
a write do there, so that later proofs unfold neither (spec/20_memory.md R61 to R66, R76). -/

namespace Sys2Proof.Machine

variable {s : State} {p : Params} {off k : Nat} {z : Size} {r : Reg} {v : Word}

/-- The offsets of the registers (R21, R61). -/
theorem regAt_range (h : regAt off = some r) : off < 0x3C ∧ off % 4 = 0 := by
  unfold regAt at h
  split at h <;> first | (cases h; done) | decide

/-- Every aligned word of the register region holds a register (R61). -/
theorem regAt_isSome (h : off < 0x3C) (h4 : off % 4 = 0) : ∃ r, regAt off = some r := by
  have : ∀ o : Fin 60, o.val % 4 = 0 → (regAt o.val).isSome = true := by decide
  exact Option.isSome_iff_exists.mp (this ⟨off, h⟩ h4)

theorem decodeAccess_register (h : regAt off = some r) : decodeAccess p off .four = some (.register r) := by
  obtain ⟨h1, h2⟩ := regAt_range h
  simp [decodeAccess, sizeBytes, h1, h2, h]

theorem decodeAccess_inWindow (hp : p.wf = true) (ha : k % sizeBytes z = 0) (hb : k + sizeBytes z ≤ p.inCap) :
    decodeAccess p (0x4000 + k) z = some (.inWindow k) := by
  have hal : (0x4000 + k) % sizeBytes z = 0 := by cases z <;> simp [sizeBytes] at ha ⊢ <;> omega
  have := wf_caps hp
  unfold decodeAccess inBase
  rw [if_neg (by omega), if_neg (by omega), if_pos (by omega)]
  simp

theorem decodeAccess_outWindow (hp : p.wf = true) (ha : k % sizeBytes z = 0) (hb : k + sizeBytes z ≤ p.outCap) :
    decodeAccess p (0x8000 + k) z = some (.outWindow k) := by
  have hal : (0x8000 + k) % sizeBytes z = 0 := by cases z <;> simp [sizeBytes] at ha ⊢ <;> omega
  have := wf_caps hp
  have hz : 1 ≤ sizeBytes z := by cases z <;> decide
  unfold decodeAccess inBase outBase
  rw [if_neg (by omega), if_neg (by omega), if_neg (by omega), if_pos (by omega)]
  simp

/-- The decode answers BusError exactly where R61 to R63 reject the access. -/
theorem decodeAccess_none_iff (p : Params) (off : Nat) (z : Size) :
    decodeAccess p off z = none ↔ ¬ Accepted p off (sizeBytes z) := by
  unfold decodeAccess Accepted inBase outBase
  by_cases h0 : off % sizeBytes z = 0
  · rw [if_neg (by omega)]
    by_cases h1 : off < 0x3C
    · rw [if_pos h1]
      cases z with
      | four =>
        obtain ⟨r, hr⟩ := regAt_isSome h1 h0
        simp only [sizeBytes] at h0
        simp [hr, sizeBytes, h0, h1]
      | one => simp [sizeBytes]; omega
      | two => simp [sizeBytes]; omega
    · rw [if_neg h1]
      by_cases h2 : 0x4000 ≤ off ∧ off + sizeBytes z ≤ 0x4000 + p.inCap
      · rw [if_pos h2]; simp [h0, h2]
      · rw [if_neg h2]
        by_cases h3 : 0x8000 ≤ off ∧ off + sizeBytes z ≤ 0x8000 + p.outCap
        · rw [if_pos h3]; simp [h0, h3]
        · rw [if_neg h3]; simp; omega
  · rw [if_pos h0]; simp [h0]

/-- A read of a register (R22 to R33, R39). -/
theorem busRead_register (h : regAt off = some r) : busRead s off .four =
    if s.busy && anyWhileBusy r then respondAny s 4 else respond s (.data (readReg s r)) := by
  unfold busRead; rw [decodeAccess_register h]; rfl

/-- A write of a register (R22 to R33, R76). -/
theorem busWrite_register (h : regAt off = some r) : busWrite s off .four v =
    respond (if s.busy && lockedReg r then dropLockedWrite s else writeReg s r v) .accepted := by
  unfold busWrite; rw [decodeAccess_register h]

/-- A read of the IN window (R64, R67). -/
theorem busRead_inWindow (hp : s.params.wf = true) (ha : k % sizeBytes z = 0)
    (hb : k + sizeBytes z ≤ s.params.inCap) :
    busRead s (0x4000 + k) z = respond s (.data (loadLanes (inByte s) k (sizeBytes z))) := by
  unfold busRead; rw [decodeAccess_inWindow hp ha hb]

/-- A read of the OUT window (R64, R39). -/
theorem busRead_outWindow (hp : s.params.wf = true) (ha : k % sizeBytes z = 0)
    (hb : k + sizeBytes z ≤ s.params.outCap) :
    busRead s (0x8000 + k) z =
      if s.busy then respondAny s (sizeBytes z) else respond s (.data (loadLanes (outByte s) k (sizeBytes z))) := by
  unfold busRead; rw [decodeAccess_outWindow hp ha hb]

/-- A write of the IN window (R64, R67, R76). -/
theorem busWrite_inWindow (hp : s.params.wf = true) (ha : k % sizeBytes z = 0)
    (hb : k + sizeBytes z ≤ s.params.inCap) :
    busWrite s (0x4000 + k) z v =
      respond (if s.busy then dropLockedWrite s else storeIn s k v (sizeBytes z)) .accepted := by
  unfold busWrite; rw [decodeAccess_inWindow hp ha hb]

/-- A write of the OUT window is ignored (R66). -/
theorem busWrite_outWindow (hp : s.params.wf = true) (ha : k % sizeBytes z = 0)
    (hb : k + sizeBytes z ≤ s.params.outCap) :
    busWrite s (0x8000 + k) z v = respond s .accepted := by
  unfold busWrite; rw [decodeAccess_outWindow hp ha hb]

/-- A locked IN window write, whatever the parameters: dropped with WERR while BUSY (R76, R185). -/
theorem busWrite_inWindow_of_le (ha : off % sizeBytes z = 0) (h1 : 0x4000 ≤ off)
    (h2 : off + sizeBytes z ≤ 0x4000 + s.params.inCap) :
    busWrite s off z v =
      respond (if s.busy then dropLockedWrite s else storeIn s (off - 0x4000) v (sizeBytes z)) .accepted := by
  have : decodeAccess s.params off z = some (.inWindow (off - 0x4000)) := by
    unfold decodeAccess inBase
    rw [if_neg (by omega), if_neg (by omega), if_pos (by omega)]
  unfold busWrite; rw [this]

/-- The lanes of a read, as a number (R64 `MemRead`). -/
theorem loadLanes_toNat (buf : Nat → Byte) (k n : Nat) (hn : n ≤ 4) :
    (loadLanes buf k n).toNat = ((List.range n).map fun j => (buf (k + j)).toNat * 2 ^ (8 * j)).sum ∧
      (loadLanes buf k n).toNat < 2 ^ (8 * n) := by
  induction n with
  | zero => simp [loadLanes]
  | succ n ih =>
    obtain ⟨h1, h2⟩ := ih (by omega)
    have hb := (buf (k + n)).isLt
    have hn' : n = 0 ∨ n = 1 ∨ n = 2 ∨ n = 3 := by omega
    have hadd : (loadLanes buf k (n + 1)).toNat = (loadLanes buf k n).toNat + (buf (k + n)).toNat * 2 ^ (8 * n) := by
      rw [loadLanes, BitVec.toNat_add, BitVec.toNat_shiftLeft, BitVec.toNat_setWidth, Nat.shiftLeft_eq]
      rcases hn' with rfl | rfl | rfl | rfl <;> norm_num at h2 ⊢ <;> omega
    refine ⟨by rw [hadd, h1, List.range_succ]; simp, ?_⟩
    rw [hadd]
    rcases hn' with rfl | rfl | rfl | rfl <;> norm_num at h2 ⊢ <;> omega

end Sys2Proof.Machine
end

