-- ==== Sys2Proof/Laws/PerInstr.lean ====
section
/-! SUPPORT. Statements about every command as syntax, made command by command (LAWS.json names the families). -/

namespace Sys2Proof.Laws.TableRow

/-- A well-formed command's encoding matches its row of spec/opcode_table.json, and its opcode selects it (R82). -/
def Statement (i : Instr) : Prop :=
  i.wf = true → encodeWord i &&& rowMask i = rowMatch i ∧ decodeOpcode (opcodeOf i) = i

theorem nop : Statement .nop := fun _ => by decide
theorem crc32 : Statement .crc32 := fun _ => by decide
theorem frame : Statement .frame := fun _ => by decide
theorem deframe : Statement .deframe := fun _ => by decide
theorem u32pack : Statement .u32pack := fun _ => by decide
theorem u32unpack : Statement .u32unpack := fun _ => by decide
theorem netsum : Statement .netsum := fun _ => by decide
theorem netsumPh : Statement .netsumPh := fun _ => by decide
theorem reserved (op : Opcode) : Statement (.reserved op) := by
  revert op; unfold Statement; decide

end Sys2Proof.Laws.TableRow
end

