-- ==== Sys2Proof/Tests/Slice0.lean ====
section
/-! SUPPORT. Tests: command words written out from R80 and R82, ill-formed terms that WellFormed refuses, one step on a
small state for each command with the vectors of spec/95_test_vectors.md, and a witness for the hypotheses of each
statement of Certificates/Slice0/Obligations.lean. -/

set_option maxRecDepth 20000

namespace Sys2Proof.Tests

open Sys2Proof Sys2Proof.Machine

/-! ## Small states -/

/-- A unit at reset with a string in IN and IN_LEN its length. -/
def loaded (p : Params) (bs : List Byte) : State :=
  { State.resetWith p with inBuf := memOfBytes 0 bs, inLen := BitVec.ofNat 16 bs.length }

/-- The default unit with a string in IN. -/
def loadedIn (bs : List Byte) : State := loaded Params.default bs

/-- The same unit BUSY with an opcode, the events `l` to come. -/
def running (s : State) (op : Opcode) (l : List Input) : State := { s with busy := true, lastOp := op, inputs := l }

/-- The same unit with the events `l` to come. -/
def withEvents (s : State) (l : List Input) : State := { s with inputs := l }

/-- The default unit with IN_LEN far above IN_CAP. -/
def tooLong : State := { State.reset with inLen := 0xFFFF#16 }

/-- Parameters whose OUT buffer holds no frame but the empty payload's. -/
def smallOut : Params := { Params.default with outCap := 6 }

/-- The next state, if there is one. -/
def stateOf : Host.Outcome State Fault Refusal → Option State
  | .next t => some t
  | _ => none

/-- ERRCODE, RESULT and RESULT1 after a command. -/
def endOf (i : Instr) (s : State) : Option (BitVec 4 × Word × Word) :=
  (stateOf (exec i s)).map fun t => (t.errcode, t.result, t.result1)

/-- OUT_LEN and the specified bytes of OUT after a command. -/
def outOf (i : Instr) (s : State) : Option (BitVec 16 × List Byte) :=
  (stateOf (exec i s)).map fun t => (t.outLen, t.outBuf.map Prod.snd)

/-- A RADIX_CODEC that a host might supply in place of the default one: each byte as its two nibbles (R5, R106). -/
def nibblePair : RadixPair where
  toRadix t := t.flatMap fun b => [b.toNat / 16, b.toNat % 16]
  fromRadix := ofNibbles
where
  ofNibbles : List Nat → List Byte
    | hi :: lo :: rest => BitVec.ofNat 8 (16 * hi + lo) :: ofNibbles rest
    | _ => []

theorem nibblePair_lawful {base : Nat} (h : 16 ≤ base) : nibblePair.Lawful base where
  digits_lt t x hx := by
    simp only [nibblePair, List.mem_flatMap, List.mem_cons, List.not_mem_nil, or_false] at hx
    obtain ⟨b, -, hb⟩ := hx
    have := b.isLt
    omega
  round_trip t := by
    induction t with
    | nil => rfl
    | cons b t ih =>
      have hb : BitVec.ofNat 8 (16 * (b.toNat / 16) + b.toNat % 16) = b := by rw [Nat.div_add_mod]; simp
      exact congrArg₂ _ hb ih

theorem next_of_stateOf {o : Host.Outcome State Fault Refusal} {t : State} (h : stateOf o = some t) : o = .next t := by
  cases o <;> simp_all [stateOf]

/-! ## Decoding: command words written out from the fields of R80 and the rows of R82 -/

/-- OP = 0001 in bits 3:0, IGN = 0: CRC32. -/
theorem test_decode_crc32 : decode [0b00000001#8, 0#8, 0#8, 0#8] = .ok (.crc32, []) := by decide

/-- OP = 0010: FRAME (program L3-1). -/
theorem test_decode_frame : decode [0b00000010#8, 0#8, 0#8, 0#8] = .ok (.frame, []) := by decide

/-- OP = 0011 with every ignored bit set: DEFRAME (vector Q3). -/
theorem test_decode_deframe : decode [0b11110011#8, 0xFF#8, 0xFF#8, 0xFF#8] = .ok (.deframe, []) := by decide

/-- OP = 0100: U32PACK, and the bytes after the word stay. -/
theorem test_decode_u32pack : decode [0b00000100#8, 0#8, 0#8, 0#8, 0x99#8] = .ok (.u32pack, [0x99#8]) := by decide

/-- OP = 0101: U32UNPACK. -/
theorem test_decode_u32unpack : decode [0b00000101#8, 0#8, 0#8, 0#8] = .ok (.u32unpack, []) := by decide

/-- OP = 0110: NETSUM. -/
theorem test_decode_netsum : decode [0b00000110#8, 0#8, 0#8, 0#8] = .ok (.netsum, []) := by decide

/-- OP = 0111: NETSUM_PH. -/
theorem test_decode_netsumPh : decode [0b00000111#8, 0#8, 0#8, 0#8] = .ok (.netsumPh, []) := by decide

/-- OP = 0000: NOP, whatever IGN holds. -/
theorem test_decode_nop : decode [0b10100000#8, 0x01#8, 0x02#8, 0x03#8] = .ok (.nop, []) := by decide

/-- OP = 1000 and OP = 1111: the ends of the reserved row. -/
theorem test_decode_reserved : decode [0b00001000#8, 0#8, 0#8, 0#8] = .ok (.reserved 0x8#4, []) ∧
    decode [0b00001111#8, 0#8, 0#8, 0#8] = .ok (.reserved 0xF#4, []) := by decide

/-- Three bytes are no command word (R80). -/
theorem test_decode_short : decode [0x01#8, 0#8, 0#8] = .error (.tooFewBytes 3) := by decide

/-- The host's reading of the table, at the width of the table's rows. -/
theorem test_decodeTableWord : decodeTableWord 32 0x7 = some .netsumPh ∧ decodeTableWord 8 0xF = some (.reserved 0xF#4) ∧
    decodeTableWord 40 0x7 = none := by decide

/-! ## WellFormed: one ill-formed term for each check -/

theorem test_wf_reserved_opcode : (Instr.reserved 0x7#4).wf = false ∧ (Instr.reserved 0x8#4).wf = true := by decide

theorem test_wf_unitBase : (Params.mk 0x8000 4096 4352 [0x0D#8] .sentinel 0 0).wf = false := by decide

theorem test_wf_inCap : (Params.mk 0 3 4352 [0x0D#8] .sentinel 0 0).wf = false ∧
    (Params.mk 0 16385 4352 [0x0D#8] .sentinel 0 0).wf = false ∧
    (Params.mk 0 4 4352 [0x0D#8] .sentinel 0 0).wf = true ∧
    (Params.mk 0 16384 4352 [0x0D#8] .sentinel 0 0).wf = true := by decide

theorem test_wf_outCap : (Params.mk 0 4096 5 [0x0D#8] .sentinel 0 0).wf = false ∧
    (Params.mk 0 4096 16385 [0x0D#8] .sentinel 0 0).wf = false ∧
    (Params.mk 0 4096 6 [0x0D#8] .sentinel 0 0).wf = true := by decide

/-- R6 item 1: no value, and five values. -/
theorem test_wf_reserved_count : reservedWf [] = false ∧ reservedWf [0x0D#8, 0#8, 1#8, 2#8, 3#8] = false := by decide

/-- R6 item 2: a value twice. -/
theorem test_wf_reserved_distinct : reservedWf [0x0D#8, 0x0D#8] = false := by decide

/-- R6 item 3: no delimiter. -/
theorem test_wf_reserved_delimiter : reservedWf [0x00#8] = false := by decide

/-- R6 item 4: B = 254, and the substitute 0xFE of 0x0D is reserved; with the values the other way round it is 0xFF. -/
theorem test_wf_reserved_substitute : reservedWf [0x0D#8, 0xFE#8] = false ∧ reservedWf [0xFE#8, 0x0D#8] = true := by
  decide

/-! ## One step for each command (spec/95_test_vectors.md) -/

/-- Q1. -/
theorem test_nop : stateOf (step (running tooLong 0x0#4 [])) =
    some { running tooLong 0x0#4 [] with busy := false, done := true } := by decide

/-- C5. -/
theorem test_crc32 : endOf .crc32 (loadedIn [0x31, 0x32, 0x33, 0x34, 0x35, 0x36, 0x37, 0x38, 0x39]) =
    some (0#4, 0xCBF43926#32, 0#32) := by decide +kernel

/-- C10: LEN_RANGE changes nothing but STATUS. -/
theorem test_crc32_lenRange : stateOf (exec .crc32 tooLong) = some { tooLong with errcode := 4#4, done := true } := by
  decide

/-- F3: the payload "Hi", and L3-1. -/
theorem test_frame : endOf .frame (loadedIn [0x48, 0x69]) = some (0#4, 0x4D170E0E#32, 0#32) ∧
    outOf .frame (loadedIn [0x48, 0x69]) =
      some (8#16, [0x01#8, 0x67#8, 0x4F#8, 0xB8#8, 0xE0#8, 0xEE#8, 0xC6#8, 0x0D#8]) := by decide +kernel

/-- R116: a wire longer than OUT_CAP. -/
theorem test_frame_overflow : endOf .frame (loaded smallOut [0x48]) = some (5#4, 0#32, 0#32) ∧
    outOf .frame (loaded smallOut [0x48]) = some (0#16, []) := by decide +kernel

/-- R5, R109: FRAME of the empty payload in a unit that is given the nibble pair: eight digits 0 and the delimiter. -/
theorem test_frame_supplied_codec : (stateOf (stepWith nibblePair (running (loadedIn []) 0x2#4 []))).map
    (fun t => (t.outLen, t.outBuf.map Prod.snd)) =
      some (9#16, [0xFC#8, 0xFC#8, 0xFC#8, 0xFC#8, 0xFC#8, 0xFC#8, 0xFC#8, 0xFC#8, 0x0D#8]) := by decide +kernel

/-- L3-2: a stray reserved byte in the body is stripped. -/
theorem test_deframe : endOf .deframe (loadedIn [0x01, 0x67, 0x00, 0x4F, 0xB8, 0xE0, 0xEE, 0xC6, 0x0D]) =
      some (0#4, 0x4D170E0E#32, 0x4D170E0E#32) ∧
    outOf .deframe (loadedIn [0x01, 0x67, 0x00, 0x4F, 0xB8, 0xE0, 0xEE, 0xC6, 0x0D]) =
      some (2#16, [0x48#8, 0x69#8]) := by decide +kernel

/-- L3-2: one byte changed, both CRCs recorded; and R114: the empty payload's frame with its first byte changed. -/
theorem test_deframe_errors : endOf .deframe (loadedIn [0x01, 0x67, 0x4F, 0xB9, 0xE0, 0xEE, 0xC6, 0x0D]) =
      some (2#4, 0x4D170E0E#32, 0x4E0B3DCE#32) ∧
    endOf .deframe (loadedIn [0xFC, 0x10, 0x61, 0x05, 0x04, 0x0D]) = some (1#4, 0#32, 0#32) := by decide +kernel

/-- P1. -/
theorem test_u32pack : endOf .u32pack { tooLong with arg0 := 0x12345678#32 } = some (0#4, 0x12345678#32, 0#32) ∧
    outOf .u32pack { tooLong with arg0 := 0x12345678#32 } = some (4#16, [0x12#8, 0x34#8, 0x56#8, 0x78#8]) := by decide

/-- P5: IN[4] is ignored. -/
theorem test_u32unpack : endOf .u32unpack (loadedIn [0xDE, 0xAD, 0xBE, 0xEF, 0x99]) =
    some (0#4, 0xDEADBEEF#32, 0#32) := by decide

/-- P6, P7: too short, and above IN_CAP. -/
theorem test_u32unpack_errors :
    endOf .u32unpack { loadedIn [1, 2, 3] with result := 7#32, result1 := 8#32 } = some (1#4, 0#32, 0#32) ∧
    endOf .u32unpack { tooLong with result := 7#32, result1 := 8#32 } = some (4#4, 7#32, 8#32) := by decide

/-- K2, K9: a carry, and the sum with its checksum appended. -/
theorem test_netsum : endOf .netsum (loadedIn [0x00, 0x01, 0xF2, 0x03, 0xF4, 0xF5, 0xF6, 0xF7]) =
      some (0#4, 0x0000220D#32, 0#32) ∧
    endOf .netsum (loadedIn [0x00, 0x01, 0xF2, 0x03, 0xF4, 0xF5, 0xF6, 0xF7, 0x22, 0x0D]) =
      some (0#4, 0#32, 0#32) := by decide +kernel

/-- K5: an odd string is padded low. -/
theorem test_netsum_odd : endOf .netsum (loadedIn [0x12, 0x34, 0x56]) = some (0#4, 0x000097CB#32, 0#32) := by
  decide +kernel

/-- K12, K16: a UDP pseudo-header, and the prefix alone. -/
theorem test_netsumPh :
    endOf .netsumPh { loadedIn [0x04, 0xD2, 0x16, 0x2E, 0x00, 0x0A, 0x00, 0x00, 0x48, 0x69] with
      arg0 := 0xC0A80001#32, arg1 := 0xC0A800C7#32, arg2 := 0x0011000A#32 } = some (0#4, 0x00001A58#32, 0#32) ∧
    endOf .netsumPh { loadedIn [] with arg0 := 0x01020304#32, arg1 := 0x05060708#32, arg2 := 0x090A0B0C#32 } =
      some (0#4, 0x0000DBD5#32, 0#32) := by decide +kernel

/-- Q2: BAD_OP, STATUS reads 0x036 and CMD 0xF. -/
theorem test_reserved : (stateOf (step (running State.reset 0xF#4 []))).map
    (fun t => (statusWord t, readReg t .cmd)) = some (0x036#32, 0xF#32) := by decide

/-! ## The functions and the bus (spec/95_test_vectors.md) -/

/-- X1, X3: the digits of the empty payload's frame, and a digit 0 that is substituted. -/
theorem test_toRadix : toRadix Params.default [0, 0, 0, 0] = [1, 16, 97, 5, 4] ∧
    subst Params.default (toRadix Params.default [0x70, 0x82, 0x07, 0x9E, 0xB1]) =
      [0x01#8, 0x8C#8, 0x76#8, 0xFC#8, 0x14#8, 0x81#8] := by decide +kernel

/-- R107 with the default set: 00 to FC, 0D to FD, 0A to FE, and FF is never a digit. -/
theorem test_subst_default : subst Params.default [0x00, 0x0D, 0x0A, 0x41] = [0xFC#8, 0xFD#8, 0xFE#8, 0x41#8] ∧
    reducedBase Params.default = 252 := by decide

/-- R105 with the lists that ToRadix never gives. -/
theorem test_fromRadix : fromRadix Params.default [] = [] ∧ fromRadix Params.default [0] = [] ∧
    fromRadix Params.default [1] = [] := by decide

/-- M1, M2, M4, M5. -/
theorem test_bus_registers : (busRead State.reset 0x000 .four).response = .data 0x52424631#32 ∧
    (busRead State.reset 0x000 .one).response = .busError 0x000 ∧
    busWrite State.reset 0x03C .four 0#32 = respond State.reset (.busError 0x03C) ∧
    (busRead State.reset 0x02C .four).response = .data 0xFF0A0D00#32 ∧
    (busRead State.reset 0x030 .four).response = .data 0x0000FC04#32 ∧
    (busRead State.reset 0x034 .four).response = .data 0x00001000#32 ∧
    (busRead State.reset 0x038 .four).response = .data 0x00001100#32 := by decide

/-- M11: the lanes. -/
theorem test_bus_lanes :
    let s := busWrite State.reset 0x4000 .four 0xEFBEADDE#32
    (busRead s 0x4000 .one).response = .data 0xDE#32 ∧ (busRead s 0x4003 .one).response = .data 0xEF#32 ∧
      (busRead s 0x4002 .two).response = .data 0xEFBE#32 := by decide

/-- M3, M8, M10, M14. -/
theorem test_bus_errors : (busRead State.reset 0x4001 .two).response = .busError 0x4001 ∧
    (busRead State.reset 0x5000 .one).response = .busError 0x5000 ∧
    (busRead State.reset 0x9100 .one).response = .busError 0x9100 ∧
    (busRead (loaded { Params.default with inCap := 4098 } []) 0x5000 .four).response = .busError 0x5000 := by decide

/-- M12, M13, Z2: CTRL and IN_LEN keep the bits they have, and the soft reset keeps the buffers of an IDLE unit. -/
theorem test_bus_control :
    (busRead (busWrite State.reset 0x004 .four 0xFFFFFFFD#32) 0x004 .four).response = .data 1#32 ∧
    (busRead (busWrite State.reset 0x010 .four 0x0001FFFF#32) 0x010 .four).response = .data 0xFFFF#32 ∧
    busWrite { loadedIn [0x48, 0x69] with irqEn := true, done := true, outBuf := [(0, 1#8)], outLen := 1#16 } 0x004 .four
        3#32 = { State.reset with inBuf := [(0, 0x48#8), (1, 0x69#8)], outBuf := [(0, 1#8)], response := .accepted } := by
  decide

/-- Q4, Q6, Q7, Q10, Q11. -/
theorem test_bus_busy :
    busWrite (running State.reset 1#4 []) 0x010 .four 5#32 =
      { running State.reset 1#4 [] with werr := true, response := .accepted } ∧
    busWrite (running State.reset 1#4 []) 0x4000 .one 0x55#32 =
      { running State.reset 1#4 [] with werr := true, response := .accepted } ∧
    busWrite (running State.reset 1#4 []) 0x018 .four 0#32 =
      { running State.reset 1#4 [] with response := .accepted } ∧
    statusWord (writeStatus { State.reset with done := true, werr := true } 0x002#32) = 0x100#32 ∧
    statusWord (writeStatus { State.reset with done := true, werr := true } 0x100#32) = 0x002#32 := by decide

/-- I1 to I5. -/
theorem test_irq :
    irq (issue { State.reset with irqEn := true } 0#32) = false ∧
    irq (complete (issue { State.reset with irqEn := true } 0#32) .ok) = true ∧
    irq (writeStatus { State.reset with irqEn := true, done := true } 2#32) = false ∧
    irq (writeCtrl { State.reset with irqEn := true, done := true } 0#32) = false ∧
    irq (writeCtrl { State.reset with done := true } 1#32) = true ∧
    irq (issue { State.reset with irqEn := true, done := true } 1#32) = false := by decide

/-! ## Witnesses: for each statement with hypotheses, states and operands that meet them together, clause by clause at
the ends of its ranges -/

theorem witness_DecodeEncodeRoundTrip : Instr.nop.wf = true ∧ (Instr.reserved 0x8#4).wf = true ∧
    (Instr.reserved 0xF#4).wf = true := by decide

theorem witness_CommandWordSelectsOneRow : 0xFFFFFFF0#32 &&& 0xF#32 = 0x0#32 ∧ 0x00000001#32 &&& 0xF#32 = 0x1#32 ∧
    0xABCDEF02#32 &&& 0xF#32 = 0x2#32 ∧ 0xFFFFFFF3#32 &&& 0xF#32 = 0x3#32 ∧ 0x00000014#32 &&& 0xF#32 = 0x4#32 ∧
    0x80000005#32 &&& 0xF#32 = 0x5#32 ∧ 0x00000006#32 &&& 0xF#32 = 0x6#32 ∧ 0x000000F7#32 &&& 0xF#32 = 0x7#32 ∧
    0x00000018#32 &&& 0xF#32 = (0x8#4 : Opcode).setWidth 32 ∧ 8 ≤ (0x8#4 : Opcode).toNat ∧
    0x0000000F#32 &&& 0xF#32 = (0xF#4 : Opcode).setWidth 32 ∧ 8 ≤ (0xF#4 : Opcode).toNat ∧
    (Instr.reserved 0x8#4).wf = true := by decide

/-- Both ways the ENGINE can be next: its turn heads the events, or no event is left. -/
theorem witness_StepRunsTheLatchedCommand :
    (EngineNext (running State.reset 0x1#4 []) ∧
      decode (lanesOfWord (readReg (running State.reset 0x1#4 []) .cmd)) = .ok (.crc32, [])) ∧
    (EngineNext (running State.reset 0xF#4 [.complete, .hardReset]) ∧
      decode (lanesOfWord (readReg (running State.reset 0xF#4 [.complete, .hardReset]) .cmd)) =
        .ok (.reserved 0xF#4, [])) :=
  ⟨⟨⟨rfl, .inl rfl⟩, by decide⟩, ⟨rfl, .inr ⟨_, rfl⟩⟩, by decide⟩

theorem witness_FetchWordRunsNext : decodeTableWord 0 0 = some .nop ∧ decodeTableWord 8 0x2 = some .frame ∧
    decodeTableWord 32 0xFFFFFFF3 = some .deframe ∧ decodeTableWord 32 0x8 = some (.reserved 0x8#4) := by decide

/-- The first and the last address of the window, the addresses beside it, and a list whose head stays inside. -/
theorem witness_StepsAndTheOnlyStop :
    let p : Params := { Params.default with unitBase := 0x10000 }
    let s (i : Input) : State := withEvents (loaded p []) [i]
    (s (.read 0x10000 .four)).inputs = [.read 0x10000 .four] ∧ p.unitBase ≤ 0x10000 ∧ 0x1FFFF < p.unitBase + 0x10000 ∧
      (s (.write 0x1FFFF .one 0#32)).inputs = [.write 0x1FFFF .one 0#32] ∧ p.unitBase ≤ 0x1FFFF ∧
      ¬ (unitOffset p 0xFFFF).isSome = true ∧ ¬ (unitOffset p 0x20000).isSome = true ∧
      (unitOffset p 0x1FFFF).isSome = true := by decide

theorem witness_CmdWriteIssues : State.reset.busy = false ∧ tooLong.busy = false := by decide

theorem witness_IssueThenCompletion :
    let s := withEvents tooLong [.write 0x00C .four 0x1#32, .complete]
    s.busy = false ∧ unitOffset s.params 0x00C = some 0x00C ∧ s.inputs = [.write 0x00C .four 0x1#32, .complete] := by
  decide

theorem witness_ReservedEndsInBadOp : 8 ≤ (0x8#4 : Opcode).toNat ∧ 8 ≤ (0xF#4 : Opcode).toNat ∧
    (running State.reset 0x8#4 []).lastOp = 0x8#4 := by decide

/-- IN_LEN at its ends: 0, IN_CAP and IN_CAP + 1. -/
theorem witness_Crc32Command : State.reset.inLen.toNat ≤ State.reset.params.inCap ∧
    ({ State.reset with inLen := 0x1000#16 } : State).inLen.toNat ≤ State.reset.params.inCap ∧
    State.reset.params.inCap < ({ State.reset with inLen := 0x1001#16 } : State).inLen.toNat := by decide

/-- A frame of exactly OUT_CAP bytes, one of OUT_CAP + 1, and IN_LEN above IN_CAP. -/
theorem witness_FrameCommand : smallOut.wf = true ∧
    ((loaded smallOut []).inLen.toNat ≤ smallOut.inCap ∧
      (frame smallOut (inString (loaded smallOut []))).length = smallOut.outCap) ∧
    ((loaded smallOut [0x48]).inLen.toNat ≤ smallOut.inCap ∧
      smallOut.outCap + 1 = (frame smallOut (inString (loaded smallOut [0x48]))).length) ∧
    tooLong.params.wf = true ∧ tooLong.params.inCap < tooLong.inLen.toNat := by decide +kernel

/-- The frame of the empty payload; that of seven bytes, one more than OUT_CAP; an empty string; a changed frame. -/
theorem witness_DeframeCommand : Params.default.wf = true ∧ smallOut.wf = true ∧
    (let s := loadedIn [0x01, 0x10, 0x61, 0x05, 0x04, 0x0D];
      s.inLen.toNat ≤ s.params.inCap ∧ deframe s.params (inString s) = .ok [] 0#32 ∧
        ([] : List Byte).length ≤ s.params.outCap) ∧
    (let s := loaded smallOut [0x01, 0x7C, 0xFD, 0x68, 0xB7, 0x0C, 0x68, 0x3E, 0xF1, 0x0F, 0x7B, 0xF8, 0x0D];
      s.inLen.toNat ≤ s.params.inCap ∧ 
        deframe s.params (inString s) = .ok [0x41#8, 0x42#8, 0x43#8, 0x44#8, 0x45#8, 0x46#8, 0x47#8] 0x0E6F94BC#32 ∧
        s.params.outCap + 1 = [0x41#8, 0x42#8, 0x43#8, 0x44#8, 0x45#8, 0x46#8, 0x47#8].length) ∧
    (State.reset.inLen.toNat ≤ State.reset.params.inCap ∧
      deframe State.reset.params (inString State.reset) = .tooShort) ∧
    (let s := loadedIn [0x02, 0x10, 0x61, 0x05, 0x04, 0x0D];
      s.inLen.toNat ≤ s.params.inCap ∧ deframe s.params (inString s) = .badChecksum 0#32 0xF05F0100#32) ∧
    tooLong.params.inCap < tooLong.inLen.toNat := by decide +kernel

theorem witness_U32unpackCommand :
    (4 ≤ (loadedIn [1, 2, 3, 4]).inLen.toNat ∧ (loadedIn [1, 2, 3, 4]).inLen.toNat ≤ Params.default.inCap) ∧
    (4 ≤ ({ State.reset with inLen := 0x1000#16 } : State).inLen.toNat ∧
      ({ State.reset with inLen := 0x1000#16 } : State).inLen.toNat ≤ Params.default.inCap) ∧
    ((loadedIn [1, 2, 3]).inLen.toNat < 4 ∧ (loadedIn [1, 2, 3]).inLen.toNat ≤ Params.default.inCap) ∧
    State.reset.params.inCap < ({ State.reset with inLen := 0x1001#16 } : State).inLen.toNat := by decide

theorem witness_NetsumCommand : (loadedIn []).inLen.toNat ≤ Params.default.inCap ∧
    ({ State.reset with inLen := 0x1000#16 } : State).inLen.toNat ≤ State.reset.params.inCap ∧
    tooLong.params.inCap < tooLong.inLen.toNat := by decide

theorem witness_NetsumPhCommand : ((loadedIn [0x48, 0x69]).inLen.toNat ≤ Params.default.inCap ∧
      (loadedIn [0x48, 0x69]).arg0 = 0#32 ∧ (loadedIn [0x48, 0x69]).arg1 = 0#32 ∧
      (loadedIn [0x48, 0x69]).arg2 = 0#32) ∧
    tooLong.params.inCap < tooLong.inLen.toNat := by decide

theorem witness_CommandCodesExactly : ErrCode.outOverflow ∈ codesOf .deframe ∧ smallOut.wf = true ∧
    exec .u32unpack tooLong = .next (complete tooLong .lenRange) ∧
    (complete tooLong .lenRange).errcode = errBits .lenRange := by
  refine ⟨by decide, by decide, next_of_stateOf (by decide), rfl⟩

/-- Two states with the same operands that differ in everything else, NETSUM_PH and U32PACK; and two that differ in IN[4],
U32UNPACK. -/
theorem witness_CommandsReadOnlyTheirOperands : (
    let s := loadedIn [1, 2, 3, 4, 5]
    let s' := loadedIn [1, 2, 3, 4, 6]
    s.params = s'.params ∧ s.inLen = s'.inLen ∧ (∀ k, k < operandBytes .u32unpack s → inByte s k = inByte s' k) ∧
      ∃ t t', exec .u32unpack s = .next t ∧ exec .u32unpack s' = .next t' ∧ t.errcode ≠ errBits .lenRange) ∧ (
    let s := { loadedIn [0x48] with arg0 := 1#32, inBuf := [(0, 0x48#8)] }
    let s' := { loadedIn [0x48] with arg0 := 1#32, inBuf := [(0, 0x48#8), (1, 0x99#8)], result := 5#32, irqEn := true }
    s.params = s'.params ∧ s.inLen = s'.inLen ∧ (∀ k, k < operandBytes .netsumPh s → inByte s k = inByte s' k) ∧
      s.arg0 = s'.arg0 ∧ s.arg1 = s'.arg1 ∧ s.arg2 = s'.arg2 ∧ readsIn .netsumPh = true ∧
      (∃ t t', exec .netsumPh s = .next t ∧ exec .netsumPh s' = .next t' ∧ t.errcode ≠ errBits .lenRange) ∧
      (∃ t t', exec .u32pack s = .next t ∧ exec .u32pack s' = .next t' ∧ writesOut .u32pack = true)) := by
  refine ⟨⟨rfl, rfl, by decide, _, _, rfl, rfl, by decide⟩, rfl, rfl, by decide, rfl, rfl, rfl, rfl, ⟨_, _, rfl, rfl, by decide⟩, ⟨_, _, rfl, rfl, rfl⟩⟩

theorem witness_Crc32DetectsOneChangedByte :
    crc32 ([0x01#8] ++ 0x41#8 :: [0x02#8]) = crc32 ([0x01#8] ++ 0x41#8 :: [0x02#8]) := rfl

theorem witness_BigEndianHelpersInverse : [0x12#8, 0x34#8, 0x56#8, 0xFF#8].length = 4 := rfl

theorem witness_ToRadixIsTheBaseBNumber : Params.default.wf = true ∧ Params.default.codec = .sentinel := by decide

/-- The empty list and a zero digit give the number 0; the largest digits do not. -/
theorem witness_FromRadixDropsTheTopByte : Params.default.wf = true ∧ Params.default.codec = .sentinel ∧
    (∀ x ∈ ([0] : List Nat), x < reducedBase Params.default) ∧ radixValue (reducedBase Params.default) [0] = 0 ∧
    radixValue (reducedBase Params.default) [] = 0 ∧
    (∀ x ∈ [251, 251], x < reducedBase Params.default) ∧ radixValue (reducedBase Params.default) [251, 251] ≠ 0 := by
  decide

theorem witness_SentinelCodecIsLawful : smallOut.wf = true := by decide

/-- The first and the last reserved value, and the digits 1 and 251, which are not reserved. -/
theorem witness_SubstitutionOfDigits : Params.default.wf = true ∧ Params.default.reserved[0]? = some 0x00#8 ∧
    Params.default.reserved[3]? = some 0xFF#8 ∧ BitVec.ofNat 8 1 ∉ Params.default.reserved ∧
    BitVec.ofNat 8 251 ∉ Params.default.reserved := by decide

/-- The first and the last substituted value, and the byte 0xFF, which is no substitute. -/
theorem witness_CleanStripsThenReverses : Params.default.wf = true ∧
    (Params.default.reserved[0]? = some 0x00#8 ∧ (0x00#8).toNat < reducedBase Params.default) ∧
    (Params.default.reserved[2]? = some 0x0A#8 ∧ (0x0A#8).toNat < reducedBase Params.default) ∧
    (∀ i, i < 4 → ∀ r ∈ Params.default.reserved[i]?, r.toNat < reducedBase Params.default →
      (0xFF#8).toNat ≠ reducedBase Params.default + i) := by decide

/-- No delimiter, an empty body, and the frames of the empty payload, whole and with its first byte changed. -/
theorem witness_DeframeSteps :
    (∀ body, ([] : List Byte) ≠ body ++ [0x0D#8]) ∧ (fromRadix Params.default (clean Params.default [])).length < 4 ∧
    fromRadix Params.default (clean Params.default [0x01, 0x10, 0x61, 0x05, 0x04]) = [] ++ [0#8, 0#8, 0#8, 0#8] ∧
    crc32 [] = 0#8 ++ 0#8 ++ 0#8 ++ 0#8 ∧
    fromRadix Params.default (clean Params.default [0x02, 0x10, 0x61, 0x05, 0x04]) = [] ++ [0xF0#8, 0x5F#8, 0x01#8, 0x00#8] ∧
    crc32 [] ≠ 0xF0#8 ++ 0x5F#8 ++ 0x01#8 ++ 0x00#8 := by
  refine ⟨fun body h => by simp at h, ?_⟩
  decide +kernel

theorem witness_WireGuarantee : Params.default.wf = true ∧ nibblePair.Lawful (reducedBase Params.default) ∧
    0 < reducedBase Params.default ∧ 251 < reducedBase Params.default ∧ (0x01#8) ∈ ([0x01#8] : List Byte) :=
  ⟨by decide, nibblePair_lawful (by decide), by decide, by decide, by decide⟩

/-- The body of the payload "Hi" with two reserved bytes inserted; and the body of the empty payload with the nibble
pair, with one inserted. -/
theorem witness_FrameRoundTrip : Params.default.wf = true ∧ nibblePair.Lawful (reducedBase Params.default) ∧
    [0xFC#8, 0xFC, 0xFC, 0xFC, 0x0A, 0xFC, 0xFC, 0xFC, 0xFC].filter (fun y => decide (y ∉ Params.default.reserved)) =
      (frameWith nibblePair Params.default []).dropLast ∧
    [0x00#8, 0x01, 0x67, 0x4F, 0xB8, 0x0D, 0xE0, 0xEE, 0xC6].filter (fun y => decide (y ∉ Params.default.reserved)) =
      (frame Params.default [0x48, 0x69]).dropLast :=
  ⟨by decide, nibblePair_lawful (by decide), by decide +kernel, by decide +kernel⟩

/-- The first and the last byte of the body of the empty payload's frame. -/
theorem witness_TamperedFrameNeverYieldsThePayload : Params.default.wf = true ∧ Params.default.codec = .sentinel ∧
    (frame Params.default []).dropLast = [] ++ 0x01#8 :: [0x10, 0x61, 0x05, 0x04] ∧ 0xFC#8 ≠ 0x01#8 ∧
    (frame Params.default []).dropLast = [0x01, 0x10, 0x61, 0x05] ++ 0x04#8 :: [] ∧ 0x05#8 ≠ 0x04#8 := by decide +kernel

theorem witness_FrameLength : smallOut.reserved = Params.default.reserved ∧ smallOut.codec = .sentinel ∧
    [0#8].length = [1#8].length ∧ ([] : List Byte).length ≤ 303 ∧ (List.replicate 303 (0#8)).length ≤ 303 ∧
    ((List.replicate 1000 (0#8)).length, 1008) ∈ [(1000, 1008), (4092, 4109), (4096, 4113), (16384, 16436)] ∧
    ((List.replicate 16384 (0#8)).length, 16436) ∈ [(1000, 1008), (4092, 4109), (4096, 4113), (16384, 16436)] := by
  refine ⟨rfl, rfl, rfl, by decide, ?_, ?_, ?_⟩ <;> rw [List.length_replicate]
  · exact List.mem_cons_self
  · exact List.mem_cons_of_mem _ (List.mem_cons_of_mem _ (List.mem_cons_of_mem _ List.mem_cons_self))

/-- A unit at another base address and line than the default ones, with IN_LEN 0 and IN_CAP. -/
theorem witness_DefaultFrameNeverOverflows :
    let s := loaded { Params.default with unitBase := 0x30000, irqLine := 7 } []
    s.params.reserved = Params.default.reserved ∧ s.params.codec = .sentinel ∧ s.params.inCap = 4096 ∧
      s.params.outCap = 4352 ∧ s.inLen.toNat ≤ 4096 ∧ ({ s with inLen := 0x1000#16 } : State).inLen.toNat ≤ 4096 := by
  decide

/-- FRAME of "Hi", and its output loaded into IN; and FRAME of the empty payload with the nibble pair. -/
theorem witness_FrameThenDeframeCommands : (
    let s := loadedIn [0x48, 0x69]
    let t := complete (putOutput s [0x01, 0x67, 0x4F, 0xB8, 0xE0, 0xEE, 0xC6, 0x0D] 0x4D170E0E#32 0#32) .ok
    let s' := loadedIn [0x01, 0x67, 0x4F, 0xB8, 0xE0, 0xEE, 0xC6, 0x0D]
    s.params.wf = true ∧ s.inLen.toNat ≤ s.params.outCap ∧ exec .frame s = .next t ∧
      t.errcode = errBits .ok ∧ s'.params = s.params ∧ s'.inLen = t.outLen ∧ s'.inLen.toNat ≤ s.params.inCap ∧
      (∀ k, k < t.outLen.toNat → inByte s' k = outByte t k)) ∧ (
    let s := loadedIn []
    let t := complete (putOutput s [0xFC, 0xFC, 0xFC, 0xFC, 0xFC, 0xFC, 0xFC, 0xFC, 0x0D] 0#32 0#32) .ok
    let s' := loadedIn [0xFC, 0xFC, 0xFC, 0xFC, 0xFC, 0xFC, 0xFC, 0xFC, 0x0D]
    s.params.wf = true ∧ nibblePair.Lawful (reducedBase s.params) ∧ s.inLen.toNat ≤ s.params.outCap ∧
      execWith nibblePair .frame s = .next t ∧
      t.errcode = errBits .ok ∧ s'.params = s.params ∧ s'.inLen = t.outLen ∧ s'.inLen.toNat ≤ s.params.inCap ∧
      (∀ k, k < t.outLen.toNat → inByte s' k = outByte t k)) := by
  refine ⟨⟨by decide, by decide, next_of_stateOf (by decide +kernel), by decide, rfl, by decide, by decide, by decide⟩,
    ⟨by decide, nibblePair_lawful (by decide), by decide, next_of_stateOf (by decide +kernel), by decide, rfl, by decide,
      by decide, by decide⟩⟩

theorem witness_InsertedChecksumVerifies : ([] : List Byte).length % 2 = 0 ∧ [0x45#8, 0x00#8].length % 2 = 0 := by decide

theorem witness_ChecksumLaws : foldedSum [0xFF#8, 0xFF#8] = 0xFFFF ∧
    (wordsOf [0#8, 1#8, 0#8, 2#8]).Perm (wordsOf [0#8, 2#8, 0#8, 1#8]) ∧ [0#8, 1#8].length % 2 = 0 := by
  refine ⟨by decide +kernel, by decide, by decide⟩

/-- Rejected: a register by bytes, misaligned, unmapped, and past each window; accepted: the last of each region. -/
theorem witness_BusErrorExactlyWhenRejected :
    ¬ Accepted Params.default 0x000 1 ∧ ¬ Accepted Params.default 0x4001 2 ∧ ¬ Accepted Params.default 0x03C 4 ∧
    ¬ Accepted Params.default 0x5000 1 ∧ ¬ Accepted Params.default 0x9100 1 ∧ Accepted Params.default 0x038 4 ∧
    Accepted Params.default 0x4000 4 ∧ Accepted Params.default 0x4FFF 1 ∧ Accepted Params.default 0x90FC 4 := by
  unfold Accepted; refine ⟨?_, ?_, ?_, ?_, ?_, ?_, ?_, ?_, ?_⟩ <;> decide

/-- The first word and the last byte of each window. -/
theorem witness_LittleEndianLanes : State.reset.params.wf = true ∧ State.reset.busy = false ∧
    0 % sizeBytes .four = 0 ∧ 0 + sizeBytes .four ≤ State.reset.params.inCap ∧ 4095 % sizeBytes .one = 0 ∧
    4095 + sizeBytes .one ≤ State.reset.params.inCap ∧ 4348 % sizeBytes .four = 0 ∧
    4348 + sizeBytes .four ≤ State.reset.params.outCap := by decide

theorem witness_HardwiredRegisters : State.reset.params.wf = true ∧ (running State.reset 0#4 []).params.wf = true ∧
    (3 : Nat) < 4 ∧ 0x000 ∈ [0x000, 0x014, 0x018, 0x01C, 0x02C, 0x030, 0x034, 0x038] ∧
    0x038 ∈ [0x000, 0x014, 0x018, 0x01C, 0x02C, 0x030, 0x034, 0x038] ∧ 0 % sizeBytes .four = 0 ∧
    4351 % sizeBytes .one = 0 ∧ 4351 + sizeBytes .one ≤ State.reset.params.outCap := by decide

theorem witness_CtrlAccess : (0xFFFFFFFD#32).getLsbD 1 = false ∧ (0x00000002#32).getLsbD 1 = true := by decide

/-- An IDLE unit and a BUSY one. -/
theorem witness_SoftReset : (0x3#32).getLsbD 1 = true ∧ State.reset.busy = false ∧
    (running State.reset 2#4 []).busy = true := by decide

theorem witness_HardwareReset : (running State.reset 2#4 [.hardReset, .complete]).inputs = [.hardReset, .complete] ∧
    (0x3#32).getLsbD 1 = true := by decide

theorem witness_AccessesWhileBusy : let s := running State.reset 2#4 []
    s.params.wf = true ∧ s.busy = true ∧ 0x00C ∈ [0x00C, 0x010, 0x020, 0x024, 0x028] ∧ 4095 % sizeBytes .one = 0 ∧
    4095 + sizeBytes .one ≤ s.params.inCap ∧ 0x038 ∈ [0x000, 0x014, 0x018, 0x01C, 0x02C, 0x030, 0x034, 0x038] ∧
    4348 % sizeBytes .four = 0 ∧ 4348 + sizeBytes .four ≤ s.params.outCap ∧ 0x018 ∈ [0x014, 0x018, 0x01C] ∧
    regAt 0x008 = some .status ∧ 0x008 ∉ [0x014, 0x018, 0x01C] := by decide

theorem witness_BusyCmdWriteIsDropped : (running State.reset 0#4 []).busy = true ∧
    exec .nop (running State.reset 0#4 []) = .next (complete (running State.reset 0#4 []) .ok) := ⟨rfl, rfl⟩

theorem witness_OperandRegistersReadBack : State.reset.busy = false := rfl

theorem witness_ReadsHaveNoSideEffect : State.reset.busy = false ∧ (loadedIn [0x48]).busy = false := ⟨rfl, rfl⟩

theorem witness_ElaborationRefusesIllFormed : nibblePair.Lawful (reducedBase smallOut) ∧ smallOut.codec = .sentinel ∧
    smallOut.wf = true ∧ ({ smallOut with reserved := [] } : Params).wf = false ∧
    smallOut.reserved[2]? = some 0x0A#8 ∧ (0x0A#8).toNat < 256 - smallOut.reserved.length := ⟨nibblePair_lawful (by decide), rfl, by decide⟩

theorem witness_ResetIsLegal : smallOut.wf = true := by decide

/-- A legal state in the middle of a command. -/
theorem legal_running (op : Opcode) (l : List Input) : Legal (running (loadedIn [0x61]) op l) where
  params := (by decide : Params.default.wf = true)
  status := ⟨fun _ => rfl, fun _ => rfl, by show (0#4).toNat ≤ 5; decide⟩
  buffers := by
    refine ⟨by rfl, by rfl, fun k hk => ?_, fun k hk => ?_⟩
    · simp only [running, loadedIn, loaded, memOfBytes, memRead] at hk ⊢
      split at hk
      · rename_i h; subst h; decide
      · cases hk
    · cases hk
  output := ⟨(by decide : (0#16).toNat ≤ 4352), fun k hk => absurd hk (Nat.not_lt_zero k)⟩

theorem witness_StepKeepsLegal : Legal (running (loadedIn [0x61]) 1#4 []) ∧
    step (running (loadedIn [0x61]) 1#4 []) =
      .next (complete (setResults (running (loadedIn [0x61]) 1#4 []) 0xE8B7BE43#32 0#32) .ok) :=
  ⟨legal_running _ _, next_of_stateOf (by decide +kernel)⟩

theorem witness_StepKeepsParams : step (withEvents (loaded smallOut []) [.hardReset]) =
    .next (hardReset (loaded smallOut [])) := rfl

theorem no_reset_complete {p : Params} {l rest : List Input} {i : Input} (h : (.complete :: l : List Input) = i :: rest) :
    ¬ Input.resets p i := by
  cases h; exact id

/-- CRC32 changes RESULT, and U32PACK changes OUT_LEN. -/
theorem witness_OutputsChangeOnlyByCompletionOrReset :
    (let s := running (loadedIn [0x61]) 1#4 [.complete];
      ∃ t, step s = .next t ∧ (∀ i rest, s.inputs = i :: rest → ¬ Input.resets s.params i) ∧ t.result ≠ s.result) ∧
    (let s := running (loadedIn [0x61]) 4#4 [.complete];
      ∃ t, step s = .next t ∧ (∀ i rest, s.inputs = i :: rest → ¬ Input.resets s.params i) ∧ t.outLen ≠ s.outLen) := by
  refine ⟨⟨complete (setResults (running (loadedIn [0x61]) 1#4 []) 0xE8B7BE43#32 0#32) .ok,
      next_of_stateOf (by decide +kernel), fun i rest h => no_reset_complete h, by decide⟩,
    ⟨complete (putOutput (running (loadedIn [0x61]) 4#4 []) [0, 0, 0, 0] 0#32 0#32) .ok,
      next_of_stateOf (by decide +kernel), fun i rest h => no_reset_complete h, by decide⟩⟩

theorem witness_InBytesChangeOnlyByIdleWrites :
    let s := withEvents (loadedIn [0x48, 0x69]) [.write 0x4001 .one 0x70#32]
    ∃ t, step s = .next t ∧ inByte t 1 ≠ inByte s 1 :=
  ⟨_, rfl, by decide⟩

/-- WERR set by a dropped CMD write, cleared by a STATUS write and by the reset input. -/
theorem witness_WerrIsSticky :
    (let s := running State.reset 1#4 [.write 0x00C .four 1#32];
      ∃ t, step s = .next t ∧ s.werr = false ∧ t.werr = true ∧ s.busy = true ∧
        Input.writesLocked s.params (.write 0x00C .four 1#32)) ∧
    (let s := { running State.reset 1#4 [.write 0x008 .four 0x100#32] with werr := true };
      ∃ t, step s = .next t ∧ s.werr = true ∧ t.werr = false) ∧
    (let s := { running State.reset 1#4 [.hardReset] with werr := true };
      ∃ t, step s = .next t ∧ s.werr = true ∧ t.werr = false) ∧
    (let s := running State.reset 1#4 [.write 0x4FFF .one 1#32];
      ∃ t, step s = .next t ∧ s.busy = true ∧ Input.writesLocked s.params (.write 0x4FFF .one 1#32)) :=
  ⟨⟨_, rfl, rfl, rfl, rfl, _, rfl, .inl ⟨rfl, .inl rfl⟩⟩, ⟨_, rfl, rfl, rfl⟩, ⟨_, rfl, rfl, rfl⟩,
    ⟨_, rfl, rfl, _, rfl, .inr ⟨by decide, by decide, by decide⟩⟩⟩

/-- irq rises by a completion and by IRQ_EN, and falls in each of the four ways. -/
theorem witness_IrqRisesAndFalls :
    let on : State := { State.reset with irqEn := true, done := true }
    (∃ t, step { running State.reset 0#4 [.complete] with irqEn := true } = .next t ∧ irq t = true ∧
      EngineNext { running State.reset 0#4 [.complete] with irqEn := true }) ∧
    (∃ t, step { on with irqEn := false, inputs := [.write 0x004 .four 1#32] } = .next t ∧ irq t = true) ∧
    (∃ t, step { on with inputs := [.write 0x008 .four 2#32] } = .next t ∧ irq t = false ∧
      Input.writesReg on.params 0x008 2#32 (.write 0x008 .four 2#32) ∧ (2#32).getLsbD 1 = true) ∧
    (∃ t, step { on with inputs := [.write 0x00C .four 1#32] } = .next t ∧ irq t = false ∧ on.busy = false ∧
      Input.writesReg on.params 0x00C 1#32 (.write 0x00C .four 1#32)) ∧
    (∃ t, step { on with inputs := [.write 0x004 .four 0#32] } = .next t ∧ irq t = false ∧
      Input.writesReg on.params 0x004 0#32 (.write 0x004 .four 0#32) ∧ (0#32).getLsbD 0 = false) ∧
    (∃ t, step { on with inputs := [.hardReset] } = .next t ∧ irq t = false ∧ Input.resets on.params .hardReset) ∧
    irq on = true :=
  ⟨⟨_, rfl, rfl, rfl, .inr ⟨_, rfl⟩⟩, ⟨_, rfl, rfl⟩, ⟨_, rfl, rfl, ⟨rfl, rfl, rfl⟩, rfl⟩,
    ⟨_, rfl, rfl, rfl, rfl, rfl, rfl⟩, ⟨_, rfl, rfl, ⟨rfl, rfl, rfl⟩, rfl⟩, ⟨_, rfl, rfl, trivial⟩, rfl⟩

/-- A locked write and a CTRL write without a reset, both while BUSY. -/
theorem witness_OperandsAreLockedWhileBusy :
    (let s := running State.reset 1#4 [.write 0x010 .four 5#32, .complete];
      s.busy = true ∧ ¬ EngineNext s ∧ (∀ i rest, s.inputs = i :: rest → ¬ Input.resets s.params i) ∧
        ∃ t, step s = .next t) ∧
    (let s := running State.reset 1#4 [.write 0x004 .four 1#32];
      s.busy = true ∧ ¬ EngineNext s ∧ (∀ i rest, s.inputs = i :: rest → ¬ Input.resets s.params i) ∧
        ∃ t, step s = .next t) := by
  refine ⟨⟨rfl, ?_, ?_, _, rfl⟩, ⟨rfl, ?_, ?_, _, rfl⟩⟩
  · rintro ⟨-, h | ⟨rest, h⟩⟩ <;> cases h
  · intro i rest h; cases h; rintro ⟨h, -⟩; revert h; decide
  · rintro ⟨-, h | ⟨rest, h⟩⟩ <;> cases h
  · intro i rest h; cases h; rintro ⟨-, -, h⟩; revert h; decide

theorem witness_BusyEngineCompletes :
    let s := running State.reset 1#4 [.read 0x008 .four, .write 0x010 .four 5#32, .complete, .read 0x018 .four]
    s.busy = true ∧ ∀ i ∈ s.inputs, ¬ Input.resets s.params i ∧ Input.inWindow s.params i := by
  refine ⟨rfl, fun i hi => ?_⟩
  simp only [running, List.mem_cons, List.not_mem_nil, or_false] at hi
  rcases hi with rfl | rfl | rfl | rfl
  · exact ⟨id, (by decide : (unitOffset Params.default 0x008).isSome = true)⟩
  · refine ⟨?_, (by decide : (unitOffset Params.default 0x010).isSome = true)⟩
    rintro ⟨h, -⟩; revert h; decide
  · exact ⟨id, trivial⟩
  · exact ⟨id, (by decide : (unitOffset Params.default 0x018).isSome = true)⟩

/-- Both kinds of reset, while FRAME is in progress. -/
theorem witness_ResetAbortsTheCommand :
    (let s := running State.reset 2#4 [.hardReset, .complete, .read 0x008 .four];
      ∃ t u, s.inputs = [.hardReset, .complete, .read 0x008 .four] ∧ Input.resets s.params .hardReset ∧ s.busy = true ∧
        step s = .next t ∧ Host.Core.run core 2 t = .next u) ∧
    (let s := running State.reset 2#4 [.write 0x004 .four 2#32, .complete];
      ∃ t u, s.inputs = [.write 0x004 .four 2#32, .complete] ∧ Input.resets s.params (.write 0x004 .four 2#32) ∧
        s.busy = true ∧ step s = .next t ∧ Host.Core.run core 1 t = .next u) :=
  ⟨⟨_, _, rfl, trivial, rfl, rfl, rfl⟩, ⟨_, _, rfl, ⟨rfl, rfl, rfl⟩, rfl, rfl, rfl⟩⟩

end Sys2Proof.Tests
end

