-- ==== Sys2Proof/Proofs/Scope.lean ====
section
/-! The elaboration parameters (spec/00_scope.md R5, R6): what each check of `Params.wf` says, and what elaboration
answers. -/

namespace Sys2Proof.Machine

/-- R6 item 4: the substitutes B + i are the members of `substitutes base 0 rs`, so none of them is reserved exactly
when no member of that list is. -/
theorem substitutes_not_reserved_iff {base : Nat} {rs : List Byte} :
    (substitutes base 0 rs).all (fun b => !rs.contains b) = true ↔
      ∀ i r, rs[i]? = some r → r.toNat < base → BitVec.ofNat 8 (base + i) ∉ rs := by
  simp only [List.all_eq_true, Bool.not_eq_true', ← Bool.not_eq_true, List.contains_iff_mem, mem_substitutes,
    Nat.zero_add]
  constructor
  · intro h i r hr hlt
    exact h _ ⟨i, r, hr, hlt, rfl⟩
  · rintro h b ⟨i, r, hr, hlt, rfl⟩
    exact h i r hr hlt

/-- The five conditions of R6 on RESERVED. -/
theorem reservedWf_iff {rs : List Byte} : reservedWf rs = true ↔
    1 ≤ rs.length ∧ rs.length ≤ 4 ∧ rs.Nodup ∧ 0x0D#8 ∈ rs ∧
      ∀ i r, rs[i]? = some r → r.toNat < 256 - rs.length → BitVec.ofNat 8 (256 - rs.length + i) ∉ rs := by
  simp only [reservedWf, Bool.and_eq_true, decide_eq_true_eq, List.contains_iff_mem, substitutes_not_reserved_iff,
    and_assoc]

/-- R5: only a substitute codec can be ill formed, and it is when its number names no pair (log 4). -/
theorem codecWf_iff {p : Params} : codecWf p = true ↔
    ∀ id, p.codec = .substitute id → (Config.substitutePair id (256 - p.reserved.length)).isSome = true := by
  cases hc : p.codec with
  | sentinel => simp [codecWf, hc]
  | substitute n => simp [codecWf, hc]

/-- R5: well-formed parameters are the legal ranges, a well-formed RESERVED and a well-formed codec. -/
theorem params_wf_iff {p : Params} : p.wf = true ↔
    p.unitBase % 0x10000 = 0 ∧ 4 ≤ p.inCap ∧ p.inCap ≤ 16384 ∧ 6 ≤ p.outCap ∧ p.outCap ≤ 16384 ∧
      reservedWf p.reserved = true ∧ codecWf p = true := by
  simp only [Params.wf, Bool.and_eq_true, decide_eq_true_eq, and_assoc]

theorem elaborate_of_wf {p : Params} (h : p.wf = true) : elaborate p = .next (State.resetWith p) := if_pos h

theorem elaborate_of_not_wf {p : Params} (h : p.wf = false) : elaborate p = .refused .illFormedParams :=
  if_neg (ne_true_of_eq_false h)

theorem elaborateWith_of_wf {p : Params} (c : {c : RadixPair // c.Lawful (reducedBase p)})
    (h : ({ p with codec := .sentinel } : Params).wf = true) :
    elaborateWith p c = .next (State.resetWith { p with codec := .sentinel }, stepWith c.val) := by
  rw [elaborateWith, elaborate_of_wf h]

theorem elaborateWith_of_not_wf {p : Params} (c : {c : RadixPair // c.Lawful (reducedBase p)})
    (h : ({ p with codec := .sentinel } : Params).wf = false) :
    elaborateWith p c = .refused .illFormedParams := by
  rw [elaborateWith, elaborate_of_not_wf h]

/-- Settles O50: the parameter checks by their own lemmas, the default set by evaluation, and the two forms of
elaboration by their two answers. -/
theorem elaborationRefusesIllFormed : Obligations.ElaborationRefusesIllFormed := by
  unfold Obligations.ElaborationRefusesIllFormed
  refine ⟨fun p => ?_, by decide, fun _ => elaborate_of_not_wf, fun _ => elaborate_of_wf,
    fun _ c => ⟨elaborateWith_of_wf c, elaborateWith_of_not_wf c⟩⟩
  simp only [params_wf_iff, reservedWf_iff, codecWf_iff, and_assoc]

end Sys2Proof.Machine
end

section
/-! The register map of spec/10_state.md: the hardwired registers (R22, R33), CTRL (R24), STATUS (R26) and the interrupt
output (R40), each first as a fact about the register's word or write and then at its offset of the port. -/

namespace Sys2Proof.Machine

variable {s : State} {off : Nat} {r : Reg} {v : Word}

/-! ## Accesses that do not depend on BUSY -/

/-- A read of a register that is no result location, BUSY or not (R39). -/
theorem busRead_of_not_any (h : regAt off = some r) (hr : anyWhileBusy r = false) :
    busRead s off .four = respond s (.data (readReg s r)) := by
  rw [busRead_register h, hr, Bool.and_false, if_neg Bool.false_ne_true]

/-- A write of a register that is not locked, BUSY or not (R76). -/
theorem busWrite_of_not_locked (h : regAt off = some r) (hr : lockedReg r = false) :
    busWrite s off .four v = respond (writeReg s r v) .accepted := by
  rw [busWrite_register h, hr, Bool.and_false, if_neg Bool.false_ne_true]

theorem busRead_response_of_not_any (h : regAt off = some r) (hr : anyWhileBusy r = false) :
    (busRead s off .four).response = .data (readReg s r) := by
  rw [busRead_of_not_any h hr, respond_response]

/-! ## CTRL (R24) -/

@[simp] theorem softReset_irqEn (s : State) : (softReset s).irqEn = false := rfl

@[simp] theorem softReset_done (s : State) : (softReset s).done = false := rfl

theorem writeCtrl_of_reset (h : v.getLsbD 1 = true) : writeCtrl s v = softReset s := by
  rcases writeCtrl_cases s v with ⟨-, hw⟩ | ⟨h', -⟩
  · exact hw
  · rw [h] at h'; cases h'

theorem writeCtrl_of_not_reset (h : v.getLsbD 1 = false) : writeCtrl s v = putIrqEn s (v.getLsbD 0) := by
  rcases writeCtrl_cases s v with ⟨h', -⟩ | ⟨-, hw⟩
  · rw [h] at h'; cases h'
  · exact hw

theorem busWrite_ctrl (s : State) (v : Word) : busWrite s 0x004 .four v = respond (writeCtrl s v) .accepted :=
  busWrite_of_not_locked (r := .ctrl) rfl rfl

/-- Settles O43, by the two cases of a CTRL write. -/
theorem ctrlAccess : Obligations.CtrlAccess := by
  unfold Obligations.CtrlAccess
  intro s v
  refine ⟨fun h => ?_, fun h => ?_, busRead_of_not_any (r := .ctrl) rfl rfl⟩
  · rw [busWrite_ctrl, writeCtrl_of_not_reset h]; rfl
  · rw [busWrite_ctrl, writeCtrl_of_reset h]
    exact ⟨rfl, softReset_irqEn s⟩

/-! ## STATUS (R26) -/

theorem flagBit_getLsbD (b : Bool) (j : Nat) : (flagBit b).getLsbD j = (decide (j = 0) && b) := by
  cases b <;> simp [flagBit]

/-- The bits of the STATUS word: each field at its place and 0 elsewhere (R25, R26). -/
theorem statusWord_getLsbD (s : State) (j : Nat) : (statusWord s).getLsbD j =
    (decide (j = 8) && s.werr || decide (4 ≤ j) && s.errcode.getLsbD (j - 4) || decide (j = 2) && errFlag s ||
      decide (j = 1) && s.done || decide (j = 0) && s.busy) := by
  simp only [statusWord, BitVec.getLsbD_or, BitVec.getLsbD_shiftLeft, BitVec.getLsbD_setWidth, flagBit_getLsbD]
  by_cases hj : j < 9
  · interval_cases j <;> simp
  · have herr : s.errcode.getLsbD (j - 4) = false := BitVec.getLsbD_of_ge _ _ (by omega)
    grind

/-- Bits 31:9 of STATUS read 0 (R26). -/
theorem statusWord_getLsbD_of_ge (s : State) {j : Nat} (hj : 9 ≤ j) : (statusWord s).getLsbD j = false := by
  have herr : s.errcode.getLsbD (j - 4) = false := BitVec.getLsbD_of_ge _ _ (by omega)
  rw [statusWord_getLsbD, herr]
  grind

/-- ERRCODE is the field 7:4 (R25). -/
theorem statusWord_errcode (s : State) : (statusWord s).extractLsb' 4 4 = s.errcode := by
  apply BitVec.eq_of_getLsbD_eq
  intro j hj
  rw [BitVec.getLsbD_extractLsb', statusWord_getLsbD]
  interval_cases j <;> simp

theorem busWrite_status (s : State) (v : Word) : busWrite s 0x008 .four v = respond (writeStatus s v) .accepted :=
  busWrite_of_not_locked (r := .status) rfl rfl

/-- Settles O42, by the bits of the STATUS word. -/
theorem statusAccess : Obligations.StatusAccess := by
  unfold Obligations.StatusAccess
  intro s v
  refine ⟨busWrite_status s v, statusWord s, busRead_of_not_any (r := .status) rfl rfl, ?_, ?_, ?_, ?_,
    statusWord_errcode s, ?_, fun j hj => ?_⟩
  · rw [statusWord_getLsbD]; simp
  · rw [statusWord_getLsbD]; simp
  · rw [statusWord_getLsbD]; simp [errFlag, bne, Bool.beq_eq_decide_eq]
  · rw [statusWord_getLsbD]; simp
  · rw [statusWord_getLsbD]; simp
  · exact statusWord_getLsbD_of_ge s hj

/-! ## The hardwired registers (R22, R33) -/

/-- Lane `i` of a data word put together from its lanes (R64). -/
theorem wordOfLanes_lane (b0 b1 b2 b3 : Byte) {i : Nat} (hi : i < 4) :
    (wordOfLanes b0 b1 b2 b3).extractLsb' (8 * i) 8 = [b0, b1, b2, b3].getD i 0#8 := by
  have := b0.isLt; have := b1.isLt; have := b2.isLt; have := b3.isLt
  apply BitVec.eq_of_toNat_eq
  rw [BitVec.extractLsb'_toNat, wordOfLanes_toNat, Nat.shiftRight_eq_div_pow]
  match i, hi with
  | 0, _ | 1, _ | 2, _ | 3, _ => simp; omega

theorem rsvWord_lane (p : Params) {i : Nat} (hi : i < 4) :
    (rsvWord p).extractLsb' (8 * i) 8 = p.reserved.getD i 0#8 := by
  rw [rsvWord, wordOfLanes_lane _ _ _ _ hi]
  match i, hi with
  | 0, _ | 1, _ | 2, _ | 3, _ => rfl

theorem cfgWord_toNat {p : Params} (h1 : 1 ≤ p.reserved.length) (h4 : p.reserved.length ≤ 4) :
    (cfgWord p).toNat = p.reserved.length + 2 ^ 8 * (256 - p.reserved.length) := by
  have : p.reserved.length = 1 ∨ p.reserved.length = 2 ∨ p.reserved.length = 3 ∨ p.reserved.length = 4 := by omega
  rcases this with h | h | h | h <;> simp [cfgWord, reservedCount, reducedBase, h]

/-- The read-only registers: none is locked, and a write leaves the unit as it is (R66, R76). -/
theorem regAt_readOnly (h : off ∈ [0x000, 0x014, 0x018, 0x01C, 0x02C, 0x030, 0x034, 0x038]) :
    ∃ r, regAt off = some r ∧ lockedReg r = false ∧ ∀ s v, writeReg s r v = s := by
  simp only [List.mem_cons, List.not_mem_nil, or_false] at h
  rcases h with rfl | rfl | rfl | rfl | rfl | rfl | rfl | rfl
  all_goals exact ⟨_, rfl, rfl, fun _ _ => rfl⟩

theorem busWrite_readOnly (h : off ∈ [0x000, 0x014, 0x018, 0x01C, 0x02C, 0x030, 0x034, 0x038]) :
    busWrite s off .four v = respond s .accepted := by
  obtain ⟨r, hr, hl, hw⟩ := regAt_readOnly h
  rw [busWrite_of_not_locked hr hl, hw]

/-- Settles O41, by the words of the hardwired registers and by the writes that R66 ignores. -/
theorem hardwiredRegisters : Obligations.HardwiredRegisters := by
  unfold Obligations.HardwiredRegisters
  intro s hp
  obtain ⟨-, -, hin, -, hout, hres, -⟩ := params_wf_iff.mp hp
  obtain ⟨h1, h4, -⟩ := reservedWf_iff.mp hres
  refine ⟨busRead_response_of_not_any (r := .id) rfl rfl,
    ⟨_, busRead_response_of_not_any (r := .rsv) rfl rfl, fun i hi => rsvWord_lane s.params hi⟩,
    ⟨_, busRead_response_of_not_any (r := .cfg) rfl rfl, cfgWord_toNat h1 h4⟩,
    ⟨_, busRead_response_of_not_any (r := .inCap) rfl rfl, ?_⟩,
    ⟨_, busRead_response_of_not_any (r := .outCap) rfl rfl, ?_⟩,
    fun off v hoff => busWrite_readOnly hoff, fun k z v hk hb => busWrite_outWindow hp hk hb⟩
  · exact BitVec.toNat_ofNat .. ▸ Nat.mod_eq_of_lt (by omega)
  · exact BitVec.toNat_ofNat .. ▸ Nat.mod_eq_of_lt (by omega)

end Sys2Proof.Machine
end

section
/-! The interrupt output (spec/10_state.md R40, spec/60_exceptions.md R186): what each event does to IRQ_EN and DONE. -/

namespace Sys2Proof.Machine

variable {s t : State} {off addr : Nat} {z : Size} {v : Word} {i : Input} {rest : List Input}

theorem irq_iff (s : State) : irq s = true ↔ s.irqEn = true ∧ s.done = true := by
  rw [irq, Bool.and_eq_true]

/-! ## The step for a given event -/

@[simp] theorem setInputs_self (s : State) : setInputs s s.inputs = s := rfl

/-- The ENGINE's turn runs the latched command (R162). -/
theorem step_of_engineNext (he : EngineNext s) : step s = exec (latched s) (setInputs s s.inputs.tail) := by
  obtain ⟨hb, hi | ⟨rest, hi⟩⟩ := he
  · have hs : setInputs s s.inputs.tail = s := by rw [hi, List.tail_nil, ← hi, setInputs_self]
    rw [hs]
    simp only [step, stepBy, hi, engineTurnBy, hb, if_true]
  · rw [hi]
    simp only [step, stepBy, hi, takeInputBy, engineTurnBy, setInputs_busy, hb, if_true]
    rfl

theorem step_of_write (hi : s.inputs = .write addr z v :: rest) (ho : unitOffset s.params addr = some off) :
    step s = .next (busWrite (setInputs s rest) off z v) := by
  simp only [step, stepBy, hi, takeInputBy, atOffset, setInputs_params, ho]

theorem step_of_hardReset (hi : s.inputs = .hardReset :: rest) : step s = .next (hardReset (setInputs s rest)) := by
  simp only [step, stepBy, hi, takeInputBy]

theorem step_of_writesReg (hi : s.inputs = i :: rest) (hw : Input.writesReg s.params off v i) :
    step s = .next (busWrite (setInputs s rest) off .four v) := by
  cases i with
  | write addr z v' =>
    obtain ⟨ho, rfl, rfl⟩ := hw
    exact step_of_write hi ho
  | read | hardReset | complete => exact hw.elim

/-- The reset input and the CTRL write with bit 1 set are the two resets (R9). -/
theorem resets_cases {p : Params} (h : Input.resets p i) :
    i = .hardReset ∨ ∃ v, v.getLsbD 1 = true ∧ Input.writesReg p 0x004 v i := by
  cases i with
  | hardReset => exact .inl rfl
  | write addr z v =>
    obtain ⟨ho, hz, hv⟩ := h
    exact .inr ⟨v, hv, ho, hz, rfl⟩
  | read | complete => exact h.elim

/-! ## IRQ_EN and DONE -/

/-- Every completion step sets DONE and keeps IRQ_EN, whatever the error code (R36, R163). -/
theorem exec_done_irqEn {c : Instr} (h : exec c s = .next t) : t.done = true ∧ t.irqEn = s.irqEn := by
  rcases exec_cases h with ⟨c, rfl⟩ | ⟨r, r1, c, -, rfl⟩ | ⟨w, r, r1, c, -, -, rfl⟩ <;> exact ⟨rfl, rfl⟩

theorem step_done_irqEn_of_engineNext (he : EngineNext s) (h : step s = .next t) :
    t.done = true ∧ t.irqEn = s.irqEn := by
  rw [step_of_engineNext he] at h
  simpa using exec_done_irqEn h

/-- The events that act on IRQ_EN or DONE of `s` besides the ENGINE's turn, each with what it leaves in `t`:
the resets (R210, R212), a STATUS write (R26), the issue of a command (R161) and a CTRL write without reset (R24). -/
inductive IrqEvent (s t : State) (i : Input) : Prop where
  | reset (h : Input.resets s.params i) (en : t.irqEn = false)
  | status (v : Word) (h : Input.writesReg s.params 0x008 v i) (en : t.irqEn = s.irqEn)
      (done : t.done = (s.done && !v.getLsbD 1))
  | issue (v : Word) (h : Input.writesReg s.params 0x00C v i) (idle : s.busy = false) (busy : t.busy = true)
      (done : t.done = false)
  | ctrl (v : Word) (h : Input.writesReg s.params 0x004 v i) (keep : v.getLsbD 1 = false)
      (en : t.irqEn = v.getLsbD 0) (done : t.done = s.done)

/-- All a host write can do to IRQ_EN and DONE: of the accepted writes only those of CTRL, STATUS and CMD act on them. -/
theorem busWrite_irq_cases (ho : unitOffset s.params addr = some off) :
    ((busWrite (setInputs s rest) off z v).irqEn = s.irqEn ∧ (busWrite (setInputs s rest) off z v).done = s.done) ∨
      IrqEvent s (busWrite (setInputs s rest) off z v) (.write addr z v) := by
  rcases busWrite_cases (setInputs s rest) off z v with h | h | ⟨-, h⟩ | ⟨rfl, rfl, h⟩ | ⟨rfl, rfl, h⟩ |
    ⟨rfl, rfl, hb, h⟩ | ⟨-, -, -, h⟩ | ⟨-, -, -, h⟩ | ⟨-, -, -, h⟩ | ⟨-, -, -, h⟩ | ⟨-, -, -, h⟩ <;> rw [h]
  any_goals exact .inl ⟨rfl, rfl⟩
  · rcases writeCtrl_cases (setInputs s rest) v with ⟨hv, hw⟩ | ⟨hv, hw⟩ <;> rw [hw]
    · exact .inr (.reset ⟨ho, rfl, hv⟩ rfl)
    · exact .inr (.ctrl v ⟨ho, rfl, rfl⟩ hv rfl rfl)
  · exact .inr (.status v ⟨ho, rfl, rfl⟩ rfl rfl)
  · exact .inr (.issue v ⟨ho, rfl, rfl⟩ hb rfl rfl)

/-- All a step can do to IRQ_EN and DONE. -/
theorem step_irq_cases (h : step s = .next t) :
    (EngineNext s ∧ t.irqEn = s.irqEn) ∨ (t.irqEn = s.irqEn ∧ t.done = s.done) ∨
      ∃ i rest, s.inputs = i :: rest ∧ IrqEvent s t i := by
  by_cases he : EngineNext s
  · exact .inl ⟨he, (step_done_irqEn_of_engineNext he h).2⟩
  rcases step_cases h with ⟨hi, hT⟩ | ⟨rest, hi, hT⟩ | ⟨rest, hi, rfl⟩ | ⟨rest, addr, z, off, hi, ho, rfl⟩ |
    ⟨rest, addr, z, v, off, hi, ho, rfl⟩
  · rcases engineTurn_cases hT with ⟨-, rfl⟩ | ⟨hb, -⟩
    · exact .inr (.inl ⟨rfl, rfl⟩)
    · exact absurd ⟨hb, .inl hi⟩ he
  · rcases engineTurn_cases hT with ⟨-, rfl⟩ | ⟨hb, -⟩
    · exact .inr (.inl ⟨rfl, rfl⟩)
    · exact absurd ⟨hb, .inr ⟨rest, hi⟩⟩ he
  · exact .inr (.inr ⟨_, rest, hi, .reset trivial rfl⟩)
  · rcases busRead_cases (setInputs s rest) off z with ⟨r, hr⟩ | ⟨-, hr⟩ <;> rw [hr] <;>
      exact .inr (.inl ⟨rfl, rfl⟩)
  · exact .inr ((busWrite_irq_cases ho).imp id fun hw => ⟨_, rest, hi, hw⟩)

/-! ## What raises irq and what clears it -/

theorem irq_rises (h : step s = .next t) (h0 : irq s = false) (h1 : irq t = true) :
    (EngineNext s ∧ s.irqEn = true) ∨
      ∃ i rest v, s.inputs = i :: rest ∧ s.done = true ∧ v.getLsbD 0 = true ∧ v.getLsbD 1 = false ∧
        Input.writesReg s.params 0x004 v i := by
  obtain ⟨hen, hdone⟩ := (irq_iff t).mp h1
  rcases step_irq_cases h with ⟨he, en⟩ | ⟨en, done⟩ | ⟨i, rest, hi, hev⟩
  · exact .inl ⟨he, en ▸ hen⟩
  · rw [irq, ← en, ← done, hen, hdone] at h0; cases h0
  · cases hev with
    | reset _ en => rw [hen] at en; cases en
    | status v _ en done =>
      rw [done, Bool.and_eq_true] at hdone
      rw [irq, ← en, hen, hdone.1] at h0; cases h0
    | issue v _ _ _ done => rw [hdone] at done; cases done
    | ctrl v hw keep en done => exact .inr ⟨i, rest, v, hi, done ▸ hdone, en ▸ hen, keep, hw⟩

theorem irq_falls (h : step s = .next t) (h1 : irq s = true) (h0 : irq t = false) :
    ∃ i rest, s.inputs = i :: rest ∧
      (Input.resets s.params i ∨
        (∃ v : Word, v.getLsbD 1 = true ∧ Input.writesReg s.params 0x008 v i) ∨
        (s.busy = false ∧ t.busy = true ∧ ∃ v : Word, Input.writesReg s.params 0x00C v i) ∨
        (t.done = true ∧ ∃ v : Word, v.getLsbD 0 = false ∧ Input.writesReg s.params 0x004 v i)) := by
  obtain ⟨hen, hdone⟩ := (irq_iff s).mp h1
  rcases step_irq_cases h with ⟨he, -⟩ | ⟨en, done⟩ | ⟨i, rest, hi, hev⟩
  · obtain ⟨done, en⟩ := step_done_irqEn_of_engineNext he h
    rw [irq, en, done, hen] at h0; cases h0
  · rw [irq, en, done, hen, hdone] at h0; cases h0
  · refine ⟨i, rest, hi, ?_⟩
    cases hev with
    | reset hr _ => exact .inl hr
    | status v hw en done =>
      refine .inr (.inl ⟨v, ?_, hw⟩)
      rw [irq, en, done, hen, hdone] at h0
      simpa using h0
    | issue v hw idle busy _ => exact .inr (.inr (.inl ⟨idle, busy, v, hw⟩))
    | ctrl v hw _ en done =>
      refine .inr (.inr (.inr ⟨done ▸ hdone, v, ?_, hw⟩))
      rw [irq, en, done, hdone] at h0
      simpa using h0

theorem irq_after_completion (h : step s = .next t) (he : EngineNext s) : t.done = true ∧ irq t = s.irqEn := by
  obtain ⟨done, en⟩ := step_done_irqEn_of_engineNext he h
  exact ⟨done, by rw [irq, done, en, Bool.and_true]⟩

/-- A CTRL write that clears IRQ_EN or resets leaves irq 0 (R24). -/
theorem irq_busWrite_ctrl (h : v.getLsbD 0 = false ∨ v.getLsbD 1 = true) : irq (busWrite s 0x004 .four v) = false := by
  rw [busWrite_ctrl]
  rcases writeCtrl_cases s v with ⟨-, hw⟩ | ⟨hv, hw⟩ <;> rw [hw]
  · rfl
  · have h0 : v.getLsbD 0 = false := h.resolve_right (by rw [hv]; exact Bool.false_ne_true)
    rw [h0]; rfl

theorem irq_busWrite_status (h : v.getLsbD 1 = true) : irq (busWrite s 0x008 .four v) = false := by
  rw [busWrite_status]
  simp [irq, h]

theorem irq_busWrite_cmd (hb : s.busy = false) : irq (busWrite s 0x00C .four v) = false := by
  rw [busWrite_register (r := .cmd) rfl, hb]
  simp [irq, writeReg]

/-- Each event that R40 lets clear irq leaves it 0. -/
theorem irq_after_clearing (h : step s = .next t) (hi : s.inputs = i :: rest)
    (hc : Input.resets s.params i ∨ (∃ v : Word, v.getLsbD 1 = true ∧ Input.writesReg s.params 0x008 v i) ∨
      (s.busy = false ∧ ∃ v : Word, Input.writesReg s.params 0x00C v i) ∨
      (∃ v : Word, v.getLsbD 0 = false ∧ Input.writesReg s.params 0x004 v i)) : irq t = false := by
  have write {off : Nat} {v : Word} (hw : Input.writesReg s.params off v i) :
      busWrite (setInputs s rest) off .four v = t := by
    rw [step_of_writesReg hi hw] at h; cases h; rfl
  rcases hc with hr | ⟨v, hv, hw⟩ | ⟨hb, v, hw⟩ | ⟨v, hv, hw⟩
  · rcases resets_cases hr with rfl | ⟨v, hv, hw⟩
    · rw [step_of_hardReset hi] at h; cases h; rfl
    · exact write hw ▸ irq_busWrite_ctrl (.inr hv)
  · exact write hw ▸ irq_busWrite_status hv
  · exact write hw ▸ irq_busWrite_cmd hb
  · exact write hw ▸ irq_busWrite_ctrl (.inl hv)

/-- Settles O57: rise and fall by all a step can do to IRQ_EN and DONE, the rest by the step of the given event. -/
theorem irqRisesAndFalls : Obligations.IrqRisesAndFalls := by
  unfold Obligations.IrqRisesAndFalls
  exact ⟨irq_iff, fun s t h =>
    ⟨irq_rises h, irq_falls h, irq_after_completion h, fun i rest hi => irq_after_clearing h hi⟩⟩

end Sys2Proof.Machine
end

section
/-! The slave port of spec/20_memory.md: which accesses BusError answers (R62, R63, R184) and the byte lanes of the two
windows (R64). -/

namespace Sys2Proof.Machine

variable {s : State} {p : Params} {off k : Nat} {z : Size} {v : Word}

/-! ## Rejected and accepted accesses (R61 to R63, R184) -/

theorem busRead_of_rejected (h : ¬ Accepted s.params off (sizeBytes z)) : busRead s off z = busError s off := by
  unfold busRead; rw [(decodeAccess_none_iff s.params off z).mpr h]

theorem busWrite_of_rejected (h : ¬ Accepted s.params off (sizeBytes z)) : busWrite s off z v = busError s off := by
  unfold busWrite; rw [(decodeAccess_none_iff s.params off z).mpr h]

/-- An accepted access goes to a region (R61). -/
theorem decodeAccess_of_accepted (h : Accepted p off (sizeBytes z)) : ∃ g, decodeAccess p off z = some g :=
  Option.ne_none_iff_exists'.mp fun hn => (decodeAccess_none_iff p off z).mp hn h

/-- An accepted read returns data, also where the data are ANY while BUSY (R39). -/
theorem busRead_response_of_accepted (h : Accepted s.params off (sizeBytes z)) :
    ∃ d, (busRead s off z).response = .data d := by
  obtain ⟨g, hg⟩ := decodeAccess_of_accepted h
  unfold busRead
  rw [hg]
  cases g with
  | register r =>
    dsimp only
    split
    · exact ⟨_, respondAny_response s _⟩
    · exact ⟨_, respond_response s _⟩
  | inWindow k => exact ⟨_, respond_response s _⟩
  | outWindow k =>
    dsimp only
    split
    · exact ⟨_, respondAny_response s _⟩
    · exact ⟨_, respond_response s _⟩

/-- An accepted write is answered so, also where it is ignored (R66) or dropped (R76). -/
theorem busWrite_response_of_accepted (h : Accepted s.params off (sizeBytes z)) :
    (busWrite s off z v).response = .accepted := by
  obtain ⟨g, hg⟩ := decodeAccess_of_accepted h
  unfold busWrite
  rw [hg]
  cases g with
  | register r => exact respond_response _ _
  | inWindow k => exact respond_response _ _
  | outWindow k => exact respond_response _ _

/-- Settles O39, by the answer of the decode: no region exactly for a rejected access. -/
theorem busErrorExactlyWhenRejected : Obligations.BusErrorExactlyWhenRejected := by
  unfold Obligations.BusErrorExactlyWhenRejected
  exact fun s off z v =>
    ⟨fun h => ⟨busRead_of_rejected h, busWrite_of_rejected h⟩,
      fun h => ⟨busRead_response_of_accepted h, busWrite_response_of_accepted h⟩⟩

/-! ## The byte lanes of the windows (R64) -/

theorem sizeBytes_le_four (z : Size) : sizeBytes z ≤ 4 := by
  cases z <;> decide

/-- An IN byte after a store of `n` lanes: the lane's byte, or what it was (R64, R67). -/
theorem storeIn_inByte (s : State) (k : Nat) (v : Word) (n j : Nat) :
    inByte (storeIn s k v n) j = if k ≤ j ∧ j < k + n then v.extractLsb' (8 * (j - k)) 8 else inByte s j := by
  rw [inByte, storeIn_inBuf, memRead_storeLanes, storeIn_inDraw]
  split
  · rfl
  · rfl

theorem busWrite_inWindow_of_idle (hp : s.params.wf = true) (ha : k % sizeBytes z = 0)
    (hb : k + sizeBytes z ≤ s.params.inCap) (hidle : s.busy = false) :
    busWrite s (0x4000 + k) z v = respond (storeIn s k v (sizeBytes z)) .accepted := by
  rw [busWrite_inWindow hp ha hb, hidle, if_neg Bool.false_ne_true]

theorem busRead_outWindow_of_idle (hp : s.params.wf = true) (ha : k % sizeBytes z = 0)
    (hb : k + sizeBytes z ≤ s.params.outCap) (hidle : s.busy = false) :
    busRead s (0x8000 + k) z = respond s (.data (loadLanes (outByte s) k (sizeBytes z))) := by
  rw [busRead_outWindow hp ha hb, hidle, if_neg Bool.false_ne_true]

/-- Settles O40, by the lanes a store puts into IN and by the sum of the lanes a read returns. -/
theorem littleEndianLanes : Obligations.LittleEndianLanes := by
  unfold Obligations.LittleEndianLanes
  intro s k z v hp ha
  have lanes (buf : Nat → Byte) := (loadLanes_toNat buf k (sizeBytes z) (sizeBytes_le_four z)).1
  refine ⟨fun hb hidle => ?_, fun hb => ?_, fun hb hidle => ?_⟩
  · rw [busWrite_inWindow_of_idle hp ha hb hidle]
    exact ⟨rfl, fun j => storeIn_inByte s k v (sizeBytes z) j⟩
  · rw [busRead_inWindow hp ha hb]
    exact ⟨_, respond_response s _, lanes (inByte s)⟩
  · rw [busRead_outWindow_of_idle hp ha hb hidle]
    exact ⟨_, respond_response s _, lanes (outByte s)⟩

end Sys2Proof.Machine
end

section
/-! The opcode map (spec/30_encoding.md R82): the decoder and `opcodeOf` are inverse to each other between the opcodes
and the well-formed commands, so the mask of a command word selects one row. -/

namespace Sys2Proof.Machine

variable {i : Instr} {op : Opcode} {w : Word}

/-! ## Opcodes and rows -/

/-- No two opcodes share a row: the reserved row keeps its opcode (R83). -/
theorem opcodeOf_decodeOpcode (op : Opcode) : opcodeOf (decodeOpcode op) = op := by
  revert op
  decide

/-- Every well-formed command is the row its opcode selects, by its row of the table. -/
theorem decodeOpcode_opcodeOf (h : i.wf = true) : decodeOpcode (opcodeOf i) = i := by
  have row : Laws.TableRow.Statement i := by
    cases i with
    | nop => exact Laws.TableRow.nop
    | crc32 => exact Laws.TableRow.crc32
    | frame => exact Laws.TableRow.frame
    | deframe => exact Laws.TableRow.deframe
    | u32pack => exact Laws.TableRow.u32pack
    | u32unpack => exact Laws.TableRow.u32unpack
    | netsum => exact Laws.TableRow.netsum
    | netsumPh => exact Laws.TableRow.netsumPh
    | reserved op => exact Laws.TableRow.reserved op
  exact (row h).2

theorem decodeOpcode_eq_iff (h : i.wf = true) : decodeOpcode op = i ↔ op = opcodeOf i := by
  constructor
  · rintro rfl
    exact (opcodeOf_decodeOpcode op).symm
  · rintro rfl
    exact decodeOpcode_opcodeOf h

/-! ## Command words -/

/-- The mask of R82 compares the opcode field alone (R80). -/
theorem mask_eq_iff : w &&& 0xF#32 = op.setWidth 32 ↔ opField w = op := by
  rw [opField_mask]
  constructor
  · intro h
    simpa using congrArg (BitVec.setWidth 4) h
  · exact congrArg (BitVec.setWidth 32)

theorem decodeWord_eq_iff (h : i.wf = true) : decodeWord w = i ↔ w &&& 0xF#32 = (opcodeOf i).setWidth 32 := by
  rw [decodeWord, decodeOpcode_eq_iff h, mask_eq_iff]

/-- Every well-formed command is encoded by its opcode (R80, R82). -/
theorem encodedAs_opcodeOf (h : i.wf = true) : EncodedAs i (opcodeOf i) :=
  ⟨rfl, fun _ => (decodeWord_eq_iff h).mpr⟩

/-- Settles O2: each row by the encoding of its command, and that the row is unique by `decodeWord_eq_iff`. -/
theorem commandWordSelectsOneRow : Obligations.CommandWordSelectsOneRow := by
  unfold Obligations.CommandWordSelectsOneRow
  intro w
  have row (i : Instr) (h : i.wf = true) : w &&& 0xF#32 = (opcodeOf i).setWidth 32 → decodeWord w = i :=
    (encodedAs_opcodeOf h).2 w
  exact ⟨row .nop rfl, row .crc32 rfl, row .frame rfl, row .deframe rfl, row .u32pack rfl, row .u32unpack rfl,
    row .netsum rfl, row .netsumPh rfl, fun op hw hop => row (.reserved op) (decide_eq_true hop) hw,
    fun _ => decodeWord_eq_iff⟩

end Sys2Proof.Machine
end

section
/-! The big-endian helpers of the framing codec (spec/40_framing.md R102). -/

namespace Sys2Proof.Machine

/-- `be32` of four bytes side by side is those bytes (R102). -/
theorem be32_append4 (a b c d : Byte) : be32 (a ++ b ++ c ++ d) = [a, b, c, d] := by
  have ha := a.isLt; have hb := b.isLt; have hc := c.isLt; have hd := d.isLt
  simp only [be32, List.cons.injEq, and_true]
  refine ⟨?_, ?_, ?_, ?_⟩ <;> apply BitVec.eq_of_toNat_eq <;>
    simp only [BitVec.extractLsb'_toNat, append4_toNat, Nat.shiftRight_eq_div_pow] <;> omega

theorem u32be_toNat (a b c d : Byte) :
    (u32be [a, b, c, d]).toNat = a.toNat * 2 ^ 24 + b.toNat * 2 ^ 16 + c.toNat * 2 ^ 8 + d.toNat := by
  rw [u32be_four, append4_toNat]

theorem u32be_be32 (v : Word) : u32be (be32 v) = v := by
  rw [be32, u32be_four]
  exact wordOfLanes_lanes v

theorem be32_u32be {bs : List Byte} (h : bs.length = 4) : be32 (u32be bs) = bs := by
  obtain ⟨a, b, c, d, rfl⟩ := List.length_eq_four.mp h
  rw [u32be_four, be32_append4]

/-- Settles O23: the inverses by the bytes that `u32be` puts side by side, the frame by its definition. -/
theorem bigEndianHelpersInverse : Obligations.BigEndianHelpersInverse := by
  unfold Obligations.BigEndianHelpersInverse
  exact ⟨fun _ => rfl, u32be_toNat, u32be_be32, fun _ => be32_u32be, fun _ _ => rfl⟩

end Sys2Proof.Machine
end

section
/-! The default radix conversion (spec/40_framing.md R104, R105): what `radixValue` says of the digits of `toBase`. -/

namespace Sys2Proof.Machine

variable {b v : Nat} {p : Params}

/-! ## The value of digits -/

/-- The sum Σ d[k] · b^(m−1−k) is the library's value of the digits, least significant first. -/
theorem radixValue_eq_ofDigits (b : Nat) (ds : List Nat) : radixValue b ds = Nat.ofDigits b ds.reverse := by
  induction ds with
  | nil => rfl
  | cons d ds ih =>
    rw [radixValue, ih, List.reverse_cons, Nat.ofDigits_append, Nat.ofDigits_singleton, List.length_reverse]
    ring

theorem ofBase_eq_radixValue (b : Nat) (ds : List Nat) : ofBase b ds = radixValue b ds := by
  rw [ofBase_eq_ofDigits, radixValue_eq_ofDigits]

theorem beNat_eq_radixValue (bs : List Byte) : beNat bs = radixValue 256 (bs.map BitVec.toNat) := by
  rw [beNat_eq_ofDigits, radixValue_eq_ofDigits]

/-! ## The base-b representation -/

theorem toBase_zero (hb : 1 < b) : toBase b 0 = [] := by
  rw [toBase_eq_digits hb, Nat.digits_zero, List.reverse_nil]

theorem radixValue_toBase (hb : 1 < b) (v : Nat) : radixValue b (toBase b v) = v := by
  rw [toBase_eq_digits hb, radixValue_eq_ofDigits, List.reverse_reverse, Nat.ofDigits_digits]

theorem toBase_lt (hb : 1 < b) {x : Nat} (hx : x ∈ toBase b v) : x < b := by
  rw [toBase_eq_digits hb, List.mem_reverse] at hx
  exact Nat.digits_lt_base hb hx

/-- A number other than 0 has a first digit, and it is not 0. -/
theorem toBase_of_ne_zero (hb : 1 < b) (hv : v ≠ 0) : ∃ d ds, toBase b v = d :: ds ∧ d ≠ 0 := by
  have hne : Nat.digits b v ≠ [] := Nat.digits_ne_nil_iff_ne_zero.mpr hv
  refine ⟨(Nat.digits b v).getLast hne, (Nat.digits b v).dropLast.reverse, ?_, Nat.getLast_digit_ne_zero b hv⟩
  rw [toBase_eq_digits hb, ← List.reverse_concat, List.dropLast_append_getLast hne]

/-! ## ToRadix and FromRadix -/

theorem one_lt_reducedBase (h : p.wf = true) : 1 < reducedBase p := by
  obtain ⟨-, -, -, hB, -⟩ := wf_base h
  omega

/-- Settles O24: `ToRadix` is the base-B representation of the number with the sentinel, which is not 0. -/
theorem toRadixIsTheBaseBNumber : Obligations.ToRadixIsTheBaseBNumber := by
  unfold Obligations.ToRadixIsTheBaseBNumber
  intro p hp hc t
  have hB := one_lt_reducedBase hp
  have hv : 256 ^ t.length + beNat t ≠ 0 := (Nat.add_pos_left (by positivity) _).ne'
  rw [toRadix_sentinel hc, ← beNat_eq_radixValue]
  exact ⟨radixValue_toBase hB _, fun _ => toBase_lt hB, toBase_of_ne_zero hB hv⟩

theorem byte_toNat_ofNat {x : Nat} (h : x < 256) : (BitVec.ofNat 8 x).toNat = x :=
  (BitVec.toNat_ofNat x 8).trans (Nat.mod_eq_of_lt h)

theorem map_toNat_map_ofNat {ds : List Nat} (h : ∀ x ∈ ds, x < 256) :
    (ds.map (BitVec.ofNat 8)).map BitVec.toNat = ds := by
  rw [List.map_map]
  exact (List.map_congr_left fun x hx => byte_toNat_ofNat (h x hx)).trans (List.map_id ds)

/-- Settles O25: `FromRadix` is the base-256 representation of the value of the digits, less its first byte. -/
theorem fromRadixDropsTheTopByte : Obligations.FromRadixDropsTheTopByte := by
  unfold Obligations.FromRadixDropsTheTopByte
  intro p _ hc d _
  rw [fromRadix_sentinel hc, ofBase_eq_radixValue]
  refine ⟨fun h0 => by rw [h0, toBase_zero (by decide), List.map_nil, List.tail_nil], fun hv => ?_⟩
  obtain ⟨x, xs, hx, hx0⟩ := toBase_of_ne_zero (b := 256) (by decide) hv
  have hlt : ∀ y ∈ x :: xs, y < 256 := fun y hy => toBase_lt (by decide) (hx ▸ hy)
  refine ⟨BitVec.ofNat 8 x, xs.map (BitVec.ofNat 8), fun h => hx0 ?_, ?_, by rw [hx, List.map_cons, List.tail_cons]⟩
  · rw [← byte_toNat_ofNat (hlt x List.mem_cons_self), h, BitVec.toNat_zero]
  · rw [← List.map_cons, map_toNat_map_ofNat hlt, ← hx, radixValue_toBase (by decide)]

end Sys2Proof.Machine
end

section
/-! Cleaning a received body (spec/40_framing.md R108) and the steps of Deframe (R111). -/

namespace Sys2Proof.Machine

variable {p : Params} {i : Nat} {r y : Byte}

/-! ## Clean (R108) -/

theorem stripReserved_eq (p : Params) (body : List Byte) :
    stripReserved p body = body.filter (fun y => decide (y ∉ p.reserved)) := by
  simp [stripReserved]

/-- The substitute B + i of a reserved value below B stands for that value. -/
theorem unsubByte_substitute (hp : p.wf = true) (hr : p.reserved[i]? = some r) (hlt : r.toNat < reducedBase p) :
    unsubByte p (BitVec.ofNat 8 (reducedBase p + i)) = r.toNat := by
  obtain ⟨-, -, hB, -, -⟩ := wf_base hp
  obtain ⟨hi, -⟩ := List.getElem?_eq_some_iff.mp hr
  have hy : (BitVec.ofNat 8 (reducedBase p + i)).toNat = reducedBase p + i := byte_toNat_ofNat (by omega)
  simp [unsubByte, hy, hr, hlt]

/-- A byte that is no substitute of a reserved value below B stands for itself. -/
theorem unsubByte_of_not_substitute
    (h : ∀ i r, p.reserved[i]? = some r → r.toNat < reducedBase p → y.toNat ≠ reducedBase p + i) :
    unsubByte p y = y.toNat := by
  unfold unsubByte
  split
  · rename_i r hr
    refine if_neg fun ⟨hle, hlt⟩ => h _ r hr hlt ?_
    omega
  · rfl

/-- Settles O28, by the two cases of `unsub`. -/
theorem cleanStripsThenReverses : Obligations.CleanStripsThenReverses := by
  unfold Obligations.CleanStripsThenReverses
  exact fun p hp =>
    ⟨fun body => by rw [clean, stripReserved_eq], fun _ _ => unsubByte_substitute hp,
      fun _ => unsubByte_of_not_substitute⟩

/-! ## Deframe (R111) -/

/-- A string that does not end in the delimiter fails first. -/
theorem deframe_of_no_delimiter {w : List Byte} (h : ∀ body, w ≠ body ++ [delimiter]) :
    deframe p w = .tooShort := by
  refine if_neg fun hlast => ?_
  obtain ⟨body, rfl⟩ := List.getLast?_eq_some_iff.mp hlast
  exact h body rfl

/-- The last byte alone is taken as the delimiter; the rest is cleaned and converted. -/
theorem deframe_append_delimiter (p : Params) (body : List Byte) :
    deframe p (body ++ [delimiter]) = checkTrailer (fromRadix p (clean p body)) := by
  simp [deframe, deframeWith, fromRadix]

theorem checkTrailer_of_short {t : List Byte} (h : t.length < 4) : checkTrailer t = .tooShort := if_pos h

/-- The trailer is the last four bytes and the CRC is that of the bytes before it. -/
theorem checkTrailer_append (payload : List Byte) (b0 b1 b2 b3 : Byte) :
    checkTrailer (payload ++ [b0, b1, b2, b3]) =
      if crc32 payload = b0 ++ b1 ++ b2 ++ b3 then .ok payload (crc32 payload)
      else .badChecksum (crc32 payload) (b0 ++ b1 ++ b2 ++ b3) := by
  simp [checkTrailer, u32be_four]

/-- Settles O29: the delimiter first, then the trailer of the converted body. -/
theorem deframeSteps : Obligations.DeframeSteps := by
  unfold Obligations.DeframeSteps
  intro p
  refine ⟨fun w => deframe_of_no_delimiter, fun body h => ?_, fun body payload b0 b1 b2 b3 ht => ?_⟩
  · exact (deframe_append_delimiter p body).trans (checkTrailer_of_short h)
  · have hd := deframe_append_delimiter p body
    rw [ht, checkTrailer_append] at hd
    exact ⟨fun hne => hd.trans (if_neg hne), fun heq => hd.trans (if_pos heq)⟩

end Sys2Proof.Machine
end

section
/-! The commands of the framing family (spec/40_framing.md section 2): the next state of each completion step, and what
each kind of next state says. -/

namespace Sys2Proof.Machine

variable {s : State} {i : Instr} {c : ErrCode} {w : List Byte} {r r1 : Word}

/-! ## The kinds of next state -/

/-- IN_LEN above IN_CAP ends every command that reads IN, and nothing but STATUS changes (R100). -/
theorem exec_lenRange (hr : readsIn i = true) (hl : s.params.inCap < s.inLen.toNat) :
    ∃ t, exec i s = .next t ∧ OnlyStatus .lenRange s t := by
  refine ⟨_, ?_, complete_onlyStatus s .lenRange⟩
  cases i with
  | nop | u32pack | reserved => cases hr
  | crc32 | frame | deframe | u32unpack | netsum | netsumPh => exact withInput_eq_lenRange hl

/-- A completion step that writes the two results and nothing else beside STATUS. -/
theorem exec_of_setResults (h : exec i s = .next (complete (setResults s r r1) c)) :
    ∃ t, exec i s = .next t ∧ CompletedWith c t ∧ t.result = r ∧ t.result1 = r1 ∧ SameHostSide s t ∧
      SameOutput s t :=
  ⟨_, h, complete_completedWith _ c, rfl, rfl, setResults_sameHostSide s r r1 c, setResults_sameOutput s r r1 c⟩

/-- A completion step that puts out a string whose length fits OUT_LEN. -/
theorem exec_of_putOutput (hw : w.length < 65536) (h : exec i s = .next (complete (putOutput s w r r1) c)) :
    ∃ t, exec i s = .next t ∧ CompletedWith c t ∧ OutputIs w t ∧ t.result = r ∧ t.result1 = r1 ∧
      SameHostSide s t :=
  ⟨_, h, complete_completedWith _ c, putOutput_outputIs s w r r1 c hw, rfl, rfl, putOutput_sameHostSide s w r r1 c⟩

/-- A completion step that discards the output. -/
theorem exec_of_discardOutput (h : exec i s = .next (complete (discardOutput s r r1) c)) :
    ∃ t, exec i s = .next t ∧ CompletedWith c t ∧ OutputIs [] t ∧ t.result = r ∧ t.result1 = r1 ∧
      SameHostSide s t :=
  exec_of_putOutput (by decide) h

/-- An output that fits OUT_CAP fits OUT_LEN (R5). -/
theorem length_lt_of_le_outCap (hp : s.params.wf = true) (hw : w.length ≤ s.params.outCap) : w.length < 65536 := by
  obtain ⟨-, -, -, hcap⟩ := wf_caps hp
  omega

/-! ## CRC32, U32PACK and U32UNPACK -/

/-- Settles O11, by the check of IN_LEN. -/
theorem crc32Command : Obligations.Crc32Command := by
  unfold Obligations.Crc32Command
  exact ⟨encodedAs_opcodeOf rfl, fun s =>
    ⟨fun hl => exec_of_setResults (withInput_eq_body hl), exec_lenRange rfl⟩⟩

/-- Settles O14: the completion step is one output, whatever IN_LEN is. -/
theorem u32packCommand : Obligations.U32packCommand := by
  unfold Obligations.U32packCommand
  exact ⟨encodedAs_opcodeOf rfl, fun s => exec_of_putOutput (w := be32 s.arg0) (by simp [be32]) (execU32pack_eq s)⟩

theorem u32be_inBytes_four (s : State) :
    u32be (inBytes s 4) = inByte s 0 ++ inByte s 1 ++ inByte s 2 ++ inByte s 3 :=
  u32be_four _ _ _ _

theorem exec_u32unpack_of_short (hl : s.inLen.toNat ≤ s.params.inCap) (h4 : s.inLen.toNat < 4) :
    exec .u32unpack s = .next (complete (setResults s 0#32 0#32) .tooShort) :=
  (withInput_eq_body hl).trans (if_pos h4)

theorem exec_u32unpack_of_four_le (hl : s.inLen.toNat ≤ s.params.inCap) (h4 : 4 ≤ s.inLen.toNat) :
    exec .u32unpack s =
      .next (complete (setResults s (inByte s 0 ++ inByte s 1 ++ inByte s 2 ++ inByte s 3) 0#32) .ok) := by
  rw [← u32be_inBytes_four]
  exact (withInput_eq_body hl).trans (if_neg (Nat.not_lt.mpr h4))

/-- Settles O15, by the two branches on IN_LEN below IN_CAP. -/
theorem u32unpackCommand : Obligations.U32unpackCommand := by
  unfold Obligations.U32unpackCommand
  exact ⟨encodedAs_opcodeOf rfl, fun s =>
    ⟨fun h4 hl => exec_of_setResults (exec_u32unpack_of_four_le hl h4),
      fun h4 hl => exec_of_setResults (exec_u32unpack_of_short hl h4), exec_lenRange rfl⟩⟩

/-! ## FRAME -/

theorem exec_frame_of_overflow (hl : s.inLen.toNat ≤ s.params.inCap)
    (hw : s.params.outCap < (frame s.params (inString s)).length) :
    exec .frame s = .next (complete (discardOutput s 0#32 0#32) .outOverflow) :=
  (withInput_eq_body hl).trans (if_pos hw)

theorem exec_frame_of_fits (hl : s.inLen.toNat ≤ s.params.inCap)
    (hw : (frame s.params (inString s)).length ≤ s.params.outCap) :
    exec .frame s =
      .next (complete (putOutput s (frame s.params (inString s)) (crc32 (inString s)) 0#32) .ok) :=
  (withInput_eq_body hl).trans (if_neg (Nat.not_lt.mpr hw))

/-- Settles O12, by the two branches on the length of the frame. -/
theorem frameCommand : Obligations.FrameCommand := by
  unfold Obligations.FrameCommand
  exact ⟨encodedAs_opcodeOf rfl, fun s hp =>
    ⟨fun hl hw => exec_of_putOutput (length_lt_of_le_outCap hp hw) (exec_frame_of_fits hl hw),
      fun hl hw => exec_of_discardOutput (exec_frame_of_overflow hl hw), exec_lenRange rfl⟩⟩

/-! ## DEFRAME -/

section
variable {p : List Byte} {cc rc : Word} (hl : s.inLen.toNat ≤ s.params.inCap)
include hl

theorem exec_deframe_of_tooShort (hd : deframe s.params (inString s) = .tooShort) :
    exec .deframe s = .next (complete (discardOutput s 0#32 0#32) .tooShort) := by
  change execDeframe s = _
  rw [execDeframe_eq, withInput_eq_body hl]
  simp only [hd, raiseCmdError_eq]

theorem exec_deframe_of_badChecksum (hd : deframe s.params (inString s) = .badChecksum cc rc) :
    exec .deframe s = .next (complete (discardOutput s cc rc) .badChecksum) := by
  change execDeframe s = _
  rw [execDeframe_eq, withInput_eq_body hl]
  simp only [hd, raiseCmdError_eq]

theorem exec_deframe_of_overflow (hd : deframe s.params (inString s) = .ok p cc) (hp : s.params.outCap < p.length) :
    exec .deframe s = .next (complete (discardOutput s 0#32 0#32) .outOverflow) := by
  change execDeframe s = _
  rw [execDeframe_eq, withInput_eq_body hl, hd]
  exact if_pos hp

theorem exec_deframe_of_fits (hd : deframe s.params (inString s) = .ok p cc) (hp : p.length ≤ s.params.outCap) :
    exec .deframe s = .next (complete (putOutput s p cc cc) .ok) := by
  change execDeframe s = _
  rw [execDeframe_eq, withInput_eq_body hl, hd]
  exact if_neg (Nat.not_lt.mpr hp)

end

/-- Settles O13, by the result of `Deframe` and the branch on OUT_CAP. -/
theorem deframeCommand : Obligations.DeframeCommand := by
  unfold Obligations.DeframeCommand
  exact ⟨encodedAs_opcodeOf rfl, fun s hwf =>
    ⟨fun p cc hl hd hp => exec_of_putOutput (length_lt_of_le_outCap hwf hp) (exec_deframe_of_fits hl hd hp),
      fun p cc hl hd hp => exec_of_discardOutput (exec_deframe_of_overflow hl hd hp),
      fun hl hd => exec_of_discardOutput (exec_deframe_of_tooShort hl hd),
      fun cc rc hl hd => exec_of_discardOutput (exec_deframe_of_badChecksum hl hd), exec_lenRange rfl⟩⟩

end Sys2Proof.Machine
end

section
/-! The commands of the checksum family (spec/41_checksum.md R143, R144): the next state of each completion step, and why
a pseudo-header of zero bytes does not count. -/

namespace Sys2Proof.Machine

variable {s : State} {a b : List Byte}

/-! ## The checksum and a zero prefix -/

/-- `NetChecksum` reads a string through the sum of its words alone (R141). -/
theorem netChecksum_congr (h : wordSum a = wordSum b) : netChecksum a = netChecksum b := by
  rw [netChecksum, foldedSum, h, ← foldedSum, ← netChecksum]

@[simp] theorem wordSum_zero_word (bs : List Byte) : wordSum (0#8 :: 0#8 :: bs) = wordSum bs := by
  simp [wordSum]

/-- `be32` of 0 is two words that add nothing to the sum. -/
theorem wordSum_be32_zero_append (bs : List Byte) : wordSum (be32 0#32 ++ bs) = wordSum bs := by
  simp [be32]

theorem netChecksum_pseudoHeader_of_zero (h0 : s.arg0 = 0#32) (h1 : s.arg1 = 0#32) (h2 : s.arg2 = 0#32)
    (bs : List Byte) : netChecksum (pseudoHeader s ++ bs) = netChecksum bs := by
  refine netChecksum_congr ?_
  rw [pseudoHeader, h0, h1, h2, List.append_assoc, List.append_assoc]
  simp only [wordSum_be32_zero_append]

/-! ## NETSUM and NETSUM_PH -/

/-- A 16-bit checksum in RESULT: the high half is 0. -/
theorem setWidth_eq_zero_append (v : BitVec 16) : v.setWidth 32 = 0#16 ++ v :=
  BitVec.setWidth_eq_append (by decide)

theorem exec_netsum_of_le (hl : s.inLen.toNat ≤ s.params.inCap) :
    exec .netsum s = .next (complete (setResults s (0#16 ++ netChecksum (inString s)) 0#32) .ok) := by
  rw [← setWidth_eq_zero_append]
  exact withInput_eq_body hl

theorem exec_netsumPh_of_le (hl : s.inLen.toNat ≤ s.params.inCap) :
    exec .netsumPh s =
      .next (complete (setResults s (0#16 ++ netChecksum (pseudoHeader s ++ inString s)) 0#32) .ok) := by
  rw [← setWidth_eq_zero_append]
  exact withInput_eq_body hl

/-- Settles O16, by the check of IN_LEN. -/
theorem netsumCommand : Obligations.NetsumCommand := by
  unfold Obligations.NetsumCommand
  exact ⟨encodedAs_opcodeOf rfl, fun s =>
    ⟨fun hl => exec_of_setResults (exec_netsum_of_le hl), exec_lenRange rfl⟩⟩

/-- Settles O17, by the check of IN_LEN; a pseudo-header of zero bytes leaves the sum of the words as it is. -/
theorem netsumPhCommand : Obligations.NetsumPhCommand := by
  unfold Obligations.NetsumPhCommand
  refine ⟨encodedAs_opcodeOf rfl, fun s => ⟨fun hl => ?_, exec_lenRange rfl⟩⟩
  obtain ⟨t, hexec, hdone, hresult, hresult1, hhost, hout⟩ := exec_of_setResults (exec_netsumPh_of_le hl)
  refine ⟨t, hexec, hdone, hresult, hresult1, hhost, hout, fun h0 h1 h2 => ?_⟩
  rw [hresult, netChecksum_pseudoHeader_of_zero h0 h1 h2, inString]

end Sys2Proof.Machine
end

section
/-! The command sequencer (spec/42_sequencer.md): the CMD write of an IDLE and of a BUSY ENGINE (R161, R164), and the two
commands that end without writes of their own (R165, R166). -/

namespace Sys2Proof.Machine

variable {s u : State} {i : Instr} {v : Word}

/-! ## The CMD write -/

theorem busWrite_cmd_of_idle (hb : s.busy = false) : busWrite s 0x00C .four v = respond (issue s v) .accepted := by
  rw [busWrite_register (r := .cmd) rfl, hb, Bool.false_and, if_neg Bool.false_ne_true]
  rfl

theorem busWrite_cmd_of_busy (hb : s.busy = true) :
    busWrite s 0x00C .four v = respond (dropLockedWrite s) .accepted := by
  rw [busWrite_register (r := .cmd) rfl, hb]
  rfl

/-- Settles O7, by the CMD write of an IDLE ENGINE. -/
theorem cmdWriteIssues : Obligations.CmdWriteIssues := by
  unfold Obligations.CmdWriteIssues
  exact fun s v hb => busWrite_cmd_of_idle hb

/-- The check of IN_LEN goes the same way after a dropped write, so only the bodies are left to compare (R100). -/
theorem withInput_dropLockedWrite {body body' : Host.Outcome State Fault Refusal}
    (hbody : body = .next u → body' = .next (respond (dropLockedWrite u) .accepted))
    (h : withInput s body = .next u) :
    withInput (respond (dropLockedWrite s) .accepted) body' = .next (respond (dropLockedWrite u) .accepted) := by
  rcases withInput_cases h with ⟨hl, rfl⟩ | ⟨hl, h⟩
  · exact withInput_eq_lenRange hl
  · exact (withInput_eq_body (s := respond (dropLockedWrite s) .accepted) hl).trans (hbody h)

/-- A dropped write before a completion step is as good as one after it: no command reads WERR or the port's answer, so
each takes the same branch on the same operands (R74, R164). -/
theorem exec_dropLockedWrite (h : exec i s = .next u) :
    exec i (respond (dropLockedWrite s) .accepted) = .next (respond (dropLockedWrite u) .accepted) := by
  cases i with
  | nop | u32pack | reserved => cases h; rfl
  | crc32 | netsum | netsumPh => exact withInput_dropLockedWrite (fun hbody => by cases hbody; rfl) h
  | u32unpack =>
    rcases execU32unpack_cases h with ⟨hl, rfl⟩ | ⟨hl, h4, rfl⟩ | ⟨hl, h4, rfl⟩
    · exact withInput_eq_lenRange hl
    · exact exec_u32unpack_of_short hl h4
    · rw [u32be_inBytes_four]
      exact exec_u32unpack_of_four_le hl h4
  | frame =>
    rcases execFrame_cases h with ⟨hl, rfl⟩ | ⟨hl, hw, rfl⟩ | ⟨hl, hw, rfl⟩
    · exact withInput_eq_lenRange hl
    · exact exec_frame_of_overflow hl hw
    · exact exec_frame_of_fits hl hw
  | deframe =>
    rcases execDeframe_cases h with ⟨hl, rfl⟩ | ⟨hl, hd, rfl⟩ | ⟨cc, rc, hl, hd, rfl⟩ | ⟨p, cc, hl, hd, hp, rfl⟩ |
      ⟨p, cc, hl, hd, hp, rfl⟩
    · exact withInput_eq_lenRange hl
    · exact exec_deframe_of_tooShort hl hd
    · exact exec_deframe_of_badChecksum hl hd
    · exact exec_deframe_of_overflow hl hd hp
    · exact exec_deframe_of_fits hl hd hp

/-- Settles O47: the write is dropped, and a dropped write commutes with every completion step. -/
theorem busyCmdWriteIsDropped : Obligations.BusyCmdWriteIsDropped := by
  unfold Obligations.BusyCmdWriteIsDropped
  exact fun s v hb =>
    ⟨_, busWrite_cmd_of_busy hb, rfl, hb, rfl, rfl, fun i u h => ⟨_, exec_dropLockedWrite h, rfl⟩⟩

/-! ## NOP and the reserved opcodes -/

/-- Settles O9: NOP is the completion bookkeeping alone. -/
theorem nopOnlyCompletes : Obligations.NopOnlyCompletes := by
  unfold Obligations.NopOnlyCompletes
  exact ⟨encodedAs_opcodeOf rfl, fun s => ⟨_, execNop_eq s, complete_onlyStatus s .ok⟩⟩

/-- CMD reads back LAST_OP after a completion step too (R27, R36). -/
theorem readReg_cmd_complete (s : State) (c : ErrCode) : readReg (complete s c) .cmd = s.lastOp.setWidth 32 := rfl

/-- Settles O10: a reserved opcode is the completion bookkeeping with BAD_OP alone, which keeps LAST_OP. -/
theorem reservedEndsInBadOp : Obligations.ReservedEndsInBadOp := by
  unfold Obligations.ReservedEndsInBadOp
  refine ⟨fun op hop => encodedAs_opcodeOf (i := .reserved op) (decide_eq_true hop), fun s op =>
    ⟨_, execReserved_eq op s, complete_onlyStatus s .badOp, fun hlast => ?_⟩⟩
  rw [readReg_cmd_complete, hlast]

end Sys2Proof.Machine
end

section
/-! The errors of spec/60_exceptions.md: which error code is reported when several apply (R183), and what sets and clears
STATUS.WERR (R185). -/

namespace Sys2Proof.Machine

/-! ## Error precedence (R183) -/

section
variable {s : State}

/-- Every command that reads IN reports LEN_RANGE before any code of its body. -/
theorem withInput_errcode {body : Host.Outcome State Fault Refusal} {c : ErrCode}
    (h : ∃ t, body = .next t ∧ t.errcode = errBits c) :
    ∃ t, withInput s body = .next t ∧
      t.errcode = errBits (if s.params.inCap < s.inLen.toNat then .lenRange else c) := by
  by_cases hl : s.params.inCap < s.inLen.toNat
  · rw [if_pos hl]
    exact ⟨_, withInput_eq_lenRange hl, rfl⟩
  · rw [if_neg hl, withInput_eq_body (Nat.le_of_not_lt hl)]
    exact h

/-- The last check of a body: the command ends with the code `c` or succeeds. -/
theorem raise_or_succeed_errcode (P : Prop) [Decidable P] (s₁ s₂ : State) (c : ErrCode) :
    ∃ t, (if P then raiseCmdError s₁ c else succeed s₂) = .next t ∧
      t.errcode = errBits (if P then c else .ok) := by
  split
  · exact ⟨_, raiseCmdError_eq s₁ c, rfl⟩
  · exact ⟨_, succeed_eq s₂, rfl⟩

/-- The code DEFRAME reports for what `Deframe` returned, with OUT_CAP `cap` (R117). -/
def deframeCode (cap : Nat) : DeframeResult → ErrCode
  | .tooShort => .tooShort
  | .badChecksum _ _ => .badChecksum
  | .ok payload _ => if cap < payload.length then .outOverflow else .ok

theorem exec_deframe_errcode (s : State) : ∃ t, exec .deframe s = .next t ∧
    t.errcode = errBits (if s.params.inCap < s.inLen.toNat then .lenRange
      else deframeCode s.params.outCap (deframe s.params (inString s))) := by
  change ∃ t, execDeframe s = .next t ∧ _
  rw [execDeframe_eq]
  apply withInput_errcode
  cases deframe s.params (inString s) with
  | tooShort => exact ⟨_, raiseCmdError_eq _ _, rfl⟩
  | badChecksum computed received => exact ⟨_, raiseCmdError_eq _ _, rfl⟩
  | ok payload computed => exact raise_or_succeed_errcode _ _ _ _

/-- After the delimiter: the length, then the checksum, then OUT_CAP. -/
theorem deframeCode_checkTrailer (cap : Nat) (d : List Byte) : deframeCode cap (checkTrailer d) =
    if d.length < 4 then .tooShort
    else if crc32 (d.take (d.length - 4)) ≠ u32be (d.drop (d.length - 4)) then .badChecksum
    else if cap < d.length - 4 then .outOverflow else .ok := by
  by_cases hshort : d.length < 4
  · rw [if_pos hshort, checkTrailer_of_short hshort, deframeCode]
  · by_cases hcrc : crc32 (d.take (d.length - 4)) = u32be (d.drop (d.length - 4))
    · have hlen : (d.take (d.length - 4)).length = d.length - 4 := by simp
      simp [checkTrailer, hshort, hcrc, deframeCode, hlen]
    · simp [checkTrailer, hshort, hcrc, deframeCode]

/-- The missing delimiter comes before the checks of the trailer (R111). -/
theorem deframeCode_deframe (cap : Nat) (p : Params) (w : List Byte) : deframeCode cap (deframe p w) =
    if w.getLast? ≠ some delimiter then .tooShort
    else deframeCode cap (checkTrailer (fromRadix p (clean p w.dropLast))) := by
  by_cases hlast : w.getLast? = some delimiter
  · rw [if_neg (not_not.mpr hlast)]
    exact congrArg (deframeCode cap) (if_pos hlast)
  · rw [if_pos hlast]
    exact congrArg (deframeCode cap) (if_neg hlast)

/-- Settles O18: IN_LEN first for all three commands, then the checks of each in the order of its body. -/
theorem errorPrecedence : Obligations.ErrorPrecedence := by
  unfold Obligations.ErrorPrecedence
  intro s
  refine ⟨?_, withInput_errcode (raise_or_succeed_errcode _ _ _ _),
    withInput_errcode (raise_or_succeed_errcode _ _ _ _)⟩
  have h := exec_deframe_errcode s
  rw [deframeCode_deframe, deframeCode_checkTrailer] at h
  exact h

end

/-! ## WERR (R185) -/

section
variable {s t : State} {p : Params} {off addr : Nat} {z : Size} {v : Word} {i : Input} {rest : List Input}

/-- The offsets of the locked registers (R21, R76). -/
theorem lockedReg_iff {r : Reg} (h : regAt off = some r) :
    lockedReg r = true ↔ off = 0x00C ∨ off = 0x010 ∨ off = 0x020 ∨ off = 0x024 ∨ off = 0x028 := by
  unfold regAt at h
  split at h <;> cases h <;> simp [lockedReg]

/-- The access to a locked register is one that R76 names. -/
theorem writesLocked_of_lockedReg {r : Reg} (ho : unitOffset p addr = some off) (hr : regAt off = some r)
    (hl : lockedReg r = true) : Input.writesLocked p (.write addr .four v) :=
  ⟨off, ho, .inl ⟨rfl, (lockedReg_iff hr).mp hl⟩⟩

/-- Every write that R76 names is dropped while BUSY. -/
theorem busWrite_of_writesLocked (hb : s.busy = true) (ho : unitOffset s.params addr = some off)
    (h : Input.writesLocked s.params (.write addr z v)) :
    busWrite s off z v = respond (dropLockedWrite s) .accepted := by
  obtain ⟨off', ho', hoff⟩ := h
  obtain rfl : off = off' := Option.some.inj (ho.symm.trans ho')
  rcases hoff with ⟨rfl, hreg⟩ | ⟨ha, h1, h2⟩
  · obtain ⟨r, hr⟩ : ∃ r, regAt off = some r := regAt_isSome (by omega) (by omega)
    rw [busWrite_register hr, hb, (lockedReg_iff hr).mpr hreg]
    rfl
  · rw [busWrite_inWindow_of_le ha h1 h2, hb]
    rfl

theorem exec_werr {c : Instr} (h : exec c s = .next t) : t.werr = s.werr := by
  rcases exec_cases h with ⟨c, rfl⟩ | ⟨r, r1, c, -, rfl⟩ | ⟨w, r, r1, c, -, -, rfl⟩ <;> rfl

theorem engineTurn_werr (h : engineTurn s = .next t) : t.werr = s.werr := by
  rcases engineTurn_cases h with ⟨-, rfl⟩ | ⟨-, hx⟩
  · rfl
  · exact exec_werr hx

theorem busRead_werr (s : State) (off : Nat) (z : Size) : (busRead s off z).werr = s.werr := by
  rcases busRead_cases s off z with ⟨r, hr⟩ | ⟨-, hr⟩ <;> rw [hr] <;> rfl

/-- The events that act on WERR of `s`, each with what it leaves in `t`: a locked write while BUSY (R76), a STATUS
write (R26) and the resets (R210, R212). -/
inductive WerrEvent (s t : State) (i : Input) : Prop where
  | locked (h : Input.writesLocked s.params i) (busy : s.busy = true) (werr : t.werr = true)
  | status (v : Word) (h : Input.writesReg s.params 0x008 v i) (werr : t.werr = (s.werr && !v.getLsbD 8))
  | reset (h : Input.resets s.params i) (werr : t.werr = false)

/-- Of the registers only CTRL and STATUS act on WERR when their write is not dropped. -/
theorem writeReg_werr_cases {r : Reg} (ho : unitOffset s.params addr = some off) (hr : regAt off = some r) :
    (writeReg s r v).werr = s.werr ∨
      WerrEvent s (respond (writeReg s r v) .accepted) (.write addr .four v) := by
  cases r with
  | ctrl =>
    obtain rfl : off = 0x004 := by unfold regAt at hr; split at hr <;> cases hr; rfl
    rcases writeCtrl_cases s v with ⟨hv, hw⟩ | ⟨-, hw⟩
    · exact .inr (.reset ⟨ho, rfl, hv⟩ (congrArg State.werr hw))
    · exact .inl (by rw [writeReg, hw, putIrqEn_werr])
  | status =>
    obtain rfl : off = 0x008 := by unfold regAt at hr; split at hr <;> cases hr; rfl
    exact .inr (.status v ⟨ho, rfl, rfl⟩ rfl)
  | id | cmd | inLen | outLen | result | result1 | arg0 | arg1 | arg2 | rsv | cfg | inCap | outCap => exact .inl rfl

/-- All a host write can do to WERR. -/
theorem busWrite_werr_cases (ho : unitOffset s.params addr = some off) :
    (busWrite s off z v).werr = s.werr ∨ WerrEvent s (busWrite s off z v) (.write addr z v) := by
  rcases decodeAccess_cases s.params off z with ⟨r, -, rfl, -, hr⟩ | ⟨-, ha, h1, h2⟩ | ⟨hd, -⟩ | hd
  · rw [busWrite_register hr]
    cases hlock : s.busy && lockedReg r with
    | true =>
      obtain ⟨hb, hl⟩ := Bool.and_eq_true_iff.mp hlock
      exact .inr (.locked (writesLocked_of_lockedReg ho hr hl) hb rfl)
    | false => exact writeReg_werr_cases ho hr
  · rw [busWrite_inWindow_of_le ha h1 h2]
    cases hb : s.busy with
    | true => exact .inr (.locked ⟨off, ho, .inr ⟨ha, h1, h2⟩⟩ hb rfl)
    | false => exact .inl rfl
  · unfold busWrite; rw [hd]; exact .inl rfl
  · unfold busWrite; rw [hd]; exact .inl rfl

/-- The list of events to come has no part in what an event does to WERR. -/
theorem WerrEvent.of_setInputs (h : WerrEvent (setInputs s rest) t i) : WerrEvent s t i := by
  cases h with
  | locked h busy werr => exact .locked h busy werr
  | status v h werr => exact .status v h werr
  | reset h werr => exact .reset h werr

/-- All a step can do to WERR; issuing or completing a command is not among it. -/
theorem step_werr_cases (h : step s = .next t) :
    t.werr = s.werr ∨ ∃ i rest, s.inputs = i :: rest ∧ WerrEvent s t i := by
  rcases step_cases h with ⟨-, hT⟩ | ⟨rest, -, hT⟩ | ⟨rest, hi, rfl⟩ | ⟨rest, addr, z, off, -, -, rfl⟩ |
    ⟨rest, addr, z, v, off, hi, ho, rfl⟩
  · exact .inl (engineTurn_werr hT)
  · exact .inl ((engineTurn_werr hT).trans (setInputs_werr s rest))
  · exact .inr ⟨_, rest, hi, .reset trivial rfl⟩
  · exact .inl (busRead_werr _ off z)
  · exact (busWrite_werr_cases (s := setInputs s rest) ho).imp id fun hw => ⟨_, rest, hi, hw.of_setInputs⟩

theorem werr_rises (h : step s = .next t) (h0 : s.werr = false) (h1 : t.werr = true) :
    s.busy = true ∧ ∃ i rest, s.inputs = i :: rest ∧ Input.writesLocked s.params i := by
  rcases step_werr_cases h with heq | ⟨i, rest, hi, hev⟩
  · rw [heq, h0] at h1; cases h1
  · cases hev with
    | locked hl busy _ => exact ⟨busy, i, rest, hi, hl⟩
    | status v _ werr => rw [werr, h0] at h1; cases h1
    | reset _ werr => rw [werr] at h1; cases h1

theorem werr_falls (h : step s = .next t) (h1 : s.werr = true) (h0 : t.werr = false) :
    ∃ i rest, s.inputs = i :: rest ∧
      (Input.resets s.params i ∨ ∃ v : Word, v.getLsbD 8 = true ∧ Input.writesReg s.params 0x008 v i) := by
  rcases step_werr_cases h with heq | ⟨i, rest, hi, hev⟩
  · rw [heq, h1] at h0; cases h0
  · refine ⟨i, rest, hi, ?_⟩
    cases hev with
    | locked _ _ werr => rw [werr] at h0; cases h0
    | status v hw werr =>
      rw [werr, h1] at h0
      exact .inr ⟨v, by simpa using h0, hw⟩
    | reset hr _ => exact .inl hr

theorem werr_after_locked_write (h : step s = .next t) (hb : s.busy = true) (hi : s.inputs = i :: rest)
    (hl : Input.writesLocked s.params i) : t.werr = true := by
  cases i with
  | write addr z v =>
    obtain ⟨off, ho, -⟩ := id hl
    rw [step_of_write hi ho, busWrite_of_writesLocked (s := setInputs s rest) hb ho hl] at h
    cases h
    rfl
  | read | hardReset | complete => exact hl.elim

/-- Settles O56: rise and fall by all a step can do to WERR, the rest by the step of the locked write. -/
theorem werrIsSticky : Obligations.WerrIsSticky := by
  unfold Obligations.WerrIsSticky
  exact fun s t h => ⟨werr_rises h, werr_falls h, fun i rest hb hi => werr_after_locked_write h hb hi⟩

end

end Sys2Proof.Machine
end

section
/-! The two resets (spec/70_reset_and_hazards.md): what each leaves (R210, R212), and that a reset aborts the command in
progress for good (R211). -/

namespace Sys2Proof.Machine

variable {s t u : State} {v : Word} {off : Nat} {z : Size} {i : Input} {rest : List Input}

/-! ## What a soft reset leaves (R212) -/

@[simp] theorem softReset_busy (s : State) : (softReset s).busy = false := rfl
@[simp] theorem softReset_errcode (s : State) : (softReset s).errcode = 0#4 := rfl
@[simp] theorem softReset_werr (s : State) : (softReset s).werr = false := rfl
@[simp] theorem softReset_lastOp (s : State) : (softReset s).lastOp = 0#4 := rfl
@[simp] theorem softReset_inLen (s : State) : (softReset s).inLen = 0#16 := rfl
@[simp] theorem softReset_outLen (s : State) : (softReset s).outLen = 0#16 := rfl
@[simp] theorem softReset_result (s : State) : (softReset s).result = 0#32 := rfl
@[simp] theorem softReset_result1 (s : State) : (softReset s).result1 = 0#32 := rfl
@[simp] theorem softReset_arg0 (s : State) : (softReset s).arg0 = 0#32 := rfl
@[simp] theorem softReset_arg1 (s : State) : (softReset s).arg1 = 0#32 := rfl
@[simp] theorem softReset_arg2 (s : State) : (softReset s).arg2 = 0#32 := rfl

/-- The soft reset of an IDLE ENGINE keeps OUT. -/
theorem softReset_outByte_of_idle (hb : s.busy = false) (k : Nat) : outByte (softReset s) k = outByte s k := by
  rw [softReset_eq, hb, if_neg Bool.false_ne_true, resetRegisters_outByte]

/-- The soft reset of a BUSY ENGINE leaves no OUT byte specified. -/
theorem softReset_outBuf_of_busy (hb : s.busy = true) : (softReset s).outBuf = [] := by
  rw [softReset_eq, if_pos hb, resetRegisters_outBuf, freeOut_eq, writeOut_outBuf, memOfBytes_nil]

/-- STATUS reads 0 when every field it is made of is 0 (R25). -/
theorem statusWord_eq_zero (hb : s.busy = false) (hd : s.done = false) (he : s.errcode = 0#4) (hw : s.werr = false) :
    statusWord s = 0#32 := by
  rw [statusWord, errFlag, hb, hd, he, hw]
  decide

theorem irq_of_not_done (hd : s.done = false) : irq s = false := by
  rw [irq, hd, Bool.and_false]

theorem busWrite_ctrl_of_reset (h : v.getLsbD 1 = true) :
    busWrite s 0x004 .four v = respond (softReset s) .accepted := by
  rw [busWrite_ctrl, writeCtrl_of_reset h]

/-- Settles O44: the CTRL write is the soft reset with an answer, and the soft reset field by field. (The name
`softReset` is the model's operation.) -/
theorem softResetByCtrlWrite : Obligations.SoftReset := by
  unfold Obligations.SoftReset
  intro s v hv
  have hstatus : statusWord (softReset s) = 0#32 :=
    statusWord_eq_zero (softReset_busy s) (softReset_done s) (softReset_errcode s) (softReset_werr s)
  refine ⟨_, busWrite_ctrl_of_reset hv, softReset_irqEn s, hstatus, softReset_lastOp s, softReset_inLen s,
    softReset_outLen s, softReset_result s, softReset_result1 s, softReset_arg0 s, softReset_arg1 s, softReset_arg2 s,
    softReset_busy s, irq_of_not_done (softReset_done s), softReset_params s, softReset_inByte s,
    softReset_outByte_of_idle, fun hb k => ?_⟩
  rw [respond_outBuf, softReset_outBuf_of_busy hb, memRead_nil]

/-! ## What a step that takes a reset leaves (R210 to R212) -/

/-- What either reset of `s` leaves in `t`, with the events `rest` still to come. -/
structure AfterReset (s : State) (rest : List Input) (t : State) : Prop where
  idle : t.busy = false
  not_done : t.done = false
  result : t.result = 0#32
  result1 : t.result1 = 0#32
  outLen : t.outLen = 0#16
  outBuf : s.busy = true → t.outBuf = []
  inputs : t.inputs = rest

theorem hardReset_afterReset (s : State) (rest : List Input) : AfterReset s rest (hardReset (setInputs s rest)) where
  idle := hardReset_busy _
  not_done := hardReset_done _
  result := hardReset_result _
  result1 := hardReset_result1 _
  outLen := hardReset_outLen _
  outBuf _ := hardReset_outBuf _
  inputs := hardReset_inputs _

theorem softReset_afterReset (s : State) (rest : List Input) (r : Response) :
    AfterReset s rest (respond (softReset (setInputs s rest)) r) where
  idle := softReset_busy (setInputs s rest)
  not_done := softReset_done (setInputs s rest)
  result := softReset_result (setInputs s rest)
  result1 := softReset_result1 (setInputs s rest)
  outLen := softReset_outLen (setInputs s rest)
  outBuf hb := softReset_outBuf_of_busy (s := setInputs s rest) hb
  inputs := softReset_inputs (setInputs s rest)

/-- A step that takes either reset leaves what that reset leaves. -/
theorem step_afterReset (hi : s.inputs = i :: rest) (hr : Input.resets s.params i) (h : step s = .next t) :
    AfterReset s rest t := by
  rcases resets_cases hr with rfl | ⟨v, hv, hw⟩
  · rw [step_of_hardReset hi] at h
    cases h
    exact hardReset_afterReset s rest
  · rw [step_of_writesReg hi hw, busWrite_ctrl_of_reset hv] at h
    cases h
    exact softReset_afterReset s rest .accepted

/-! ## An IDLE unit that only reads and turns of the ENGINE follow (R211) -/

/-- The events that give the unit nothing to do: host reads and the ENGINE's turns. -/
def Input.passive : Input → Prop
  | .read _ _ => True
  | .complete => True
  | .write _ _ _ => False
  | .hardReset => False

theorem Input.passive_iff : Input.passive i ↔ i = .complete ∨ ∃ addr z, i = .read addr z := by
  cases i <;> simp [Input.passive]

/-- IDLE, DONE 0, and only passive events to come: no command is left that could set DONE. -/
structure Quiet (s : State) : Prop where
  idle : s.busy = false
  not_done : s.done = false
  passive : ∀ j ∈ s.inputs, Input.passive j

theorem Quiet.head (hq : Quiet s) (hi : s.inputs = i :: rest) : Input.passive i :=
  hq.passive i (hi ▸ List.mem_cons_self)

theorem Quiet.tail (hq : Quiet s) (hi : s.inputs = i :: rest) : Quiet (setInputs s rest) where
  idle := hq.idle
  not_done := hq.not_done
  passive j hj := hq.passive j (hi ▸ List.mem_cons_of_mem i hj)

theorem Quiet.respond (hq : Quiet s) (r : Response) : Quiet (respond s r) := ⟨hq.idle, hq.not_done, hq.passive⟩

/-- An IDLE ENGINE's turn does nothing (R38). -/
theorem engineTurn_of_idle (hb : s.busy = false) (h : engineTurn s = .next t) : t = s := by
  rcases engineTurn_cases h with ⟨-, rfl⟩ | ⟨hb', -⟩
  · rfl
  · rw [hb] at hb'; cases hb'

/-- A read while IDLE draws nothing: it is its answer alone (R66, R69). -/
theorem busRead_of_idle (hb : s.busy = false) : ∃ r, busRead s off z = respond s r := by
  rcases busRead_cases s off z with hr | ⟨hb', -⟩
  · exact hr
  · rw [hb] at hb'; cases hb'

theorem step_keeps_quiet (hq : Quiet s) (h : step s = .next t) : Quiet t := by
  rcases step_cases h with ⟨-, hT⟩ | ⟨rest, hi, hT⟩ | ⟨rest, hi, -⟩ | ⟨rest, addr, z, off, hi, -, rfl⟩ |
    ⟨rest, addr, z, v, off, hi, -, -⟩
  · exact engineTurn_of_idle hq.idle hT ▸ hq
  · exact engineTurn_of_idle (hq.tail hi).idle hT ▸ hq.tail hi
  · exact (hq.head hi).elim
  · obtain ⟨r, hr⟩ := busRead_of_idle (off := off) (z := z) (hq.tail hi).idle
    exact hr ▸ (hq.tail hi).respond r
  · exact (hq.head hi).elim

/-- What every step keeps, every run keeps. -/
theorem run_keeps {P : State → Prop} (hstep : ∀ {s t}, P s → step s = .next t → P t) {k : Nat} (hs : P s)
    (h : Host.Core.run core k s = .next u) : P u := by
  induction k generalizing s with
  | zero => cases h; exact hs
  | succ k ih =>
    obtain ⟨t, ht, hrun⟩ := run_succ_cases h
    exact ih (hstep hs ht) hrun

/-- Settles O60: a reset leaves the unit IDLE with DONE 0, and a run of passive events keeps it so. -/
theorem resetAbortsTheCommand : Obligations.ResetAbortsTheCommand := by
  unfold Obligations.ResetAbortsTheCommand
  intro s t i rest hi hr h
  have ht : AfterReset s rest t := step_afterReset hi hr h
  refine ⟨ht.idle, ht.not_done, irq_of_not_done ht.not_done, ht.result, ht.result1, ht.outLen, fun hb k => ?_,
    fun hrest k u hrun => ?_⟩
  · rw [ht.outBuf hb, memRead_nil]
  · have hquiet : Quiet t :=
      ⟨ht.idle, ht.not_done, fun j hj => Input.passive_iff.mpr (hrest j (ht.inputs ▸ hj))⟩
    have hu : Quiet u := run_keeps step_keeps_quiet hquiet hrun
    exact ⟨hu.not_done, irq_of_not_done hu.not_done⟩

end Sys2Proof.Machine
end

section
/-! Command words and their decoding (spec/30_encoding.md R80, R82), and the step of the ENGINE's turn
(spec/42_sequencer.md R162) with whatever completion steps the machine is given. -/

namespace Sys2Proof.Machine

variable {s : State} {i : Instr} {w : Word}

/-! ## Command words -/

/-- The opcode field of an encoded command is its opcode, whatever IGN holds (R80). -/
theorem opField_encodeWith (ign : BitVec 28) (i : Instr) : opField (encodeWith ign i) = opcodeOf i := by
  have := (opcodeOf i).isLt
  apply BitVec.eq_of_toNat_eq
  rw [opField_toNat, encodeWith, BitVec.toNat_append, ← Nat.shiftLeft_add_eq_or_of_lt this, Nat.shiftLeft_eq]
  omega

/-- The opcode field of an opcode, zero-extended to a word, is the opcode. -/
theorem opField_setWidth (op : Opcode) : opField (op.setWidth 32) = op := by
  have := op.isLt
  apply BitVec.eq_of_toNat_eq
  rw [opField_toNat, BitVec.toNat_setWidth]
  omega

theorem decodeWord_encodeWith (h : i.wf = true) (ign : BitVec 28) : decodeWord (encodeWith ign i) = i := by
  rw [decodeWord, opField_encodeWith, decodeOpcode_opcodeOf h]

/-- Settles O1: the decoder reads a word back from its lanes, and the word's opcode field selects the command. -/
theorem decodeEncodeRoundTrip : Obligations.DecodeEncodeRoundTrip := by
  unfold Obligations.DecodeEncodeRoundTrip
  intro i h ign rest
  rw [decode_lanes, decodeWord_encodeWith h]

/-- Settles O3, each word by its opcode field. -/
theorem sampleCommandWordsDecode : Obligations.SampleCommandWordsDecode := by
  unfold Obligations.SampleCommandWordsDecode
  decide

theorem decodeWord_of_decode_lanes (h : decode (lanesOfWord w) = .ok (i, [])) : decodeWord w = i := by
  have hd := decode_lanes w []
  rw [List.append_nil, h] at hd
  cases hd
  rfl

theorem decodeTableWord_eq_some {nbits n : Nat} (h : decodeTableWord nbits n = some i) :
    decodeWord (BitVec.ofNat 32 (n % 2 ^ nbits)) = i := by
  have hd := decode_lanes (BitVec.ofNat 32 (n % 2 ^ nbits)) []
  rw [List.append_nil] at hd
  rw [decodeTableWord, hd] at h
  split at h
  · exact Option.some.inj h
  · cases h

/-- CMD reads back the word of the latched command (R27, R37). -/
theorem decodeWord_readReg_cmd (s : State) : decodeWord (readReg s .cmd) = latched s := by
  rw [readReg, decodeWord, opField_setWidth, latched]

/-! ## The ENGINE's turn -/

/-- The ENGINE's turn runs the latched command with the completion steps the machine is given (R162). -/
theorem stepBy_of_engineNext (ex : Executor) (he : EngineNext s) :
    stepBy ex s = ex (latched s) (setInputs s s.inputs.tail) := by
  obtain ⟨hb, hi | ⟨rest, hi⟩⟩ := he
  · have hs : setInputs s s.inputs.tail = s := by rw [hi, List.tail_nil, ← hi, setInputs_self]
    rw [hs]
    simp only [stepBy, hi, engineTurnBy, hb, if_true]
  · rw [hi]
    simp only [stepBy, hi, takeInputBy, engineTurnBy, setInputs_busy, hb, if_true]
    rfl

/-- Settles O4: the word in CMD decodes to the latched command, and the turn runs that. -/
theorem stepRunsTheLatchedCommand : Obligations.StepRunsTheLatchedCommand := by
  unfold Obligations.StepRunsTheLatchedCommand
  intro s i he hd
  have hi : latched s = i := by rw [← decodeWord_readReg_cmd, decodeWord_of_decode_lanes hd]
  exact ⟨hi ▸ step_of_engineNext he, fun c => hi ▸ stepBy_of_engineNext (execWith c) he, step_eq_stepWith s⟩

/-- Settles O5: `withFetchWord` issues the word and makes the ENGINE's turn the next event. -/
theorem fetchWordRunsNext : Obligations.FetchWordRunsNext := by
  unfold Obligations.FetchWordRunsNext
  intro s nbits w i hd
  have he : EngineNext (s.withFetchWord nbits w) := ⟨rfl, .inr ⟨s.inputs, rfl⟩⟩
  have hi : latched (s.withFetchWord nbits w) = i := decodeTableWord_eq_some hd
  rw [step_of_engineNext he, hi]
  rfl

end Sys2Proof.Machine
end

section
/-! What every step keeps (spec/60_exceptions.md R180, spec/10_state.md R25 to R34): that a step answers a next state,
the case analysis of a step by what it leaves of the unit, and the invariants that follow from it. -/

namespace Sys2Proof.Machine

variable {s t u : State} {p : Params} {i : Input} {rest : List Input} {addr off : Nat} {z : Size} {v : Word}

/-! ## Steps that answer a next state, and the only stop -/

theorem unitOffset_of_mem (h1 : p.unitBase ≤ addr) (h2 : addr < p.unitBase + 0x10000) :
    unitOffset p addr = some (addr - p.unitBase) := if_pos ⟨h1, h2⟩

theorem step_of_read (hi : s.inputs = .read addr z :: rest) (ho : unitOffset s.params addr = some off) :
    step s = .next (busRead (setInputs s rest) off z) := by
  simp only [step, stepBy, hi, takeInputBy, atOffset, setInputs_params, ho]

theorem engineTurn_next (s : State) : ∃ t, engineTurn s = .next t := by
  unfold engineTurn engineTurnBy
  split
  · exact exec_next (latched s) s
  · exact ⟨s, rfl⟩

/-- An access outside the window is the fault by name (log 10). -/
theorem step_of_not_inWindow (hi : s.inputs = i :: rest) (hw : ¬ Input.inWindow s.params i) :
    ∃ addr, step s = .fault (.outsideWindow addr) := by
  cases i with
  | hardReset | complete => exact (hw trivial).elim
  | read addr z | write addr z v =>
    have ho : unitOffset s.params addr = none := by simpa [Input.inWindow] using hw
    exact ⟨addr, by simp only [step, stepBy, hi, takeInputBy, atOffset, setInputs_params, ho]⟩

/-- Nothing else stops the unit (R180). -/
theorem step_of_inWindow (hw : ∀ i rest, s.inputs = i :: rest → Input.inWindow s.params i) : ∃ t, step s = .next t := by
  cases hi : s.inputs with
  | nil =>
    obtain ⟨t, ht⟩ := engineTurn_next s
    exact ⟨t, by rw [← ht]; simp only [step, stepBy, hi, engineTurn]⟩
  | cons i rest =>
    have hin := hw i rest hi
    cases i with
    | hardReset => exact ⟨_, step_of_hardReset hi⟩
    | read addr z => exact (Option.isSome_iff_exists.mp hin).elim fun off ho => ⟨_, step_of_read hi ho⟩
    | write addr z v => exact (Option.isSome_iff_exists.mp hin).elim fun off ho => ⟨_, step_of_write hi ho⟩
    | complete =>
      obtain ⟨t, ht⟩ := engineTurn_next (setInputs s rest)
      exact ⟨t, by rw [← ht]; simp only [step, stepBy, hi, takeInputBy, engineTurn]⟩

/-- Settles O6, by the kind of the next event. -/
theorem stepsAndTheOnlyStop : Obligations.StepsAndTheOnlyStop := by
  unfold Obligations.StepsAndTheOnlyStop
  exact fun s =>
    ⟨fun addr z rest hi h1 h2 => step_of_read hi (unitOffset_of_mem h1 h2),
      fun addr z v rest hi h1 h2 => step_of_write hi (unitOffset_of_mem h1 h2),
      fun i rest => step_of_not_inWindow, step_of_inWindow⟩

/-! ## What a completion step keeps -/

/-- Every completion step runs the completion bookkeeping and leaves the host's side alone (R36, R163). -/
theorem exec_completes {c : Instr} (h : exec c s = .next t) : (∃ e, CompletedWith e t) ∧ SameHostSide s t := by
  rcases exec_cases h with ⟨e, rfl⟩ | ⟨r, r1, e, -, rfl⟩ | ⟨w, r, r1, e, -, -, rfl⟩
  · exact ⟨⟨e, complete_completedWith _ e⟩, (complete_onlyStatus s e).host⟩
  · exact ⟨⟨e, complete_completedWith _ e⟩, setResults_sameHostSide s r r1 e⟩
  · exact ⟨⟨e, complete_completedWith _ e⟩, putOutput_sameHostSide s w r r1 e⟩

/-- Settles O8: the write issues the command of its low four bits, and the turn completes it. -/
theorem issueThenCompletion : Obligations.IssueThenCompletion := by
  unfold Obligations.IssueThenCompletion
  intro s addr v rest hb ho hi
  have hstep := step_of_write hi ho
  rw [busWrite_cmd_of_idle (s := setInputs s (.complete :: rest)) hb] at hstep
  let t := respond (issue (setInputs s (.complete :: rest)) v) .accepted
  have hturn : step t = exec (decodeWord v) (setInputs t rest) :=
    step_of_engineNext (s := t) ⟨rfl, .inr ⟨rest, rfl⟩⟩
  obtain ⟨u, hu⟩ := exec_next (decodeWord v) (setInputs t rest)
  obtain ⟨⟨e, hdone⟩, hhost⟩ := exec_completes hu
  exact ⟨t, u, hstep, rfl, rfl, rfl, rfl, hturn, hturn.trans hu, hdone.idle, hdone.done, hhost.inLen, hhost.arg0,
    hhost.arg1, hhost.arg2, hhost.inBytes⟩

/-! ## What a step leaves of the unit -/

/-- Nothing of the unit changed: only the model's own events, answer and count of draws can differ (log 8, log 9). -/
def SameUnit (s t : State) : Prop := ∃ l r n, t = { s with inputs := l, response := r, draws := n }

theorem busRead_sameUnit (s : State) (rest : List Input) (off : Nat) (z : Size) :
    SameUnit s (busRead (setInputs s rest) off z) := by
  rcases busRead_cases (setInputs s rest) off z with ⟨r, hr⟩ | ⟨-, hr⟩ <;> rw [hr] <;> exact ⟨_, _, _, rfl⟩

/-- All a step can do: the completion of the latched command, nothing to the unit (an IDLE turn or a read), the hardware
reset, or a host write. -/
theorem step_unit_cases (h : step s = .next t) :
    (EngineNext s ∧ exec (latched s) (setInputs s s.inputs.tail) = .next t) ∨
      (¬ EngineNext s ∧ SameUnit s t) ∨
      (∃ rest, s.inputs = .hardReset :: rest ∧ t = hardReset (setInputs s rest)) ∨
      (∃ rest addr z v off, s.inputs = .write addr z v :: rest ∧ unitOffset s.params addr = some off ∧
        t = busWrite (setInputs s rest) off z v) := by
  by_cases he : EngineNext s
  · exact .inl ⟨he, step_of_engineNext he ▸ h⟩
  refine .inr ?_
  rcases step_cases h with ⟨hi, hT⟩ | ⟨rest, hi, hT⟩ | hreset | ⟨rest, addr, z, off, hi, -, rfl⟩ | hwrite
  · rcases engineTurn_cases hT with ⟨-, rfl⟩ | ⟨hb, -⟩
    · exact .inl ⟨he, _, _, _, rfl⟩
    · exact absurd ⟨hb, .inl hi⟩ he
  · rcases engineTurn_cases hT with ⟨-, rfl⟩ | ⟨hb, -⟩
    · exact .inl ⟨he, _, _, _, rfl⟩
    · exact absurd ⟨hb, .inr ⟨rest, hi⟩⟩ he
  · exact .inr (.inl hreset)
  · exact .inl ⟨he, busRead_sameUnit s rest off z⟩
  · exact .inr (.inr hwrite)

theorem SameOutput.of_setInputs (h : SameOutput (setInputs s rest) t) : SameOutput s t := ⟨h.outLen, h.outBytes⟩

theorem SameResults.of_setInputs (h : SameResults (setInputs s rest) t) : SameResults s t := ⟨h.result, h.result1⟩

theorem SameOperands.of_setInputs (h : SameOperands (setInputs s rest) t) : SameOperands s t :=
  ⟨h.params, h.lastOp, h.inLen, h.arg0, h.arg1, h.arg2, h.inBytes⟩

/-- A CTRL write that is no reset event has bit 1 clear (R24). -/
theorem ctrl_write_of_not_resets (ho : unitOffset p addr = some 0x004)
    (h : ¬ Input.resets p (.write addr .four v)) : v.getLsbD 1 = false := by
  rw [← Bool.not_eq_true]
  exact fun hv => h ⟨ho, rfl, hv⟩

/-! ## The parameters (R5) and the events still to come -/

@[simp] theorem writeCtrl_params (s : State) (v : Word) : (writeCtrl s v).params = s.params := by
  rcases writeCtrl_cases s v with ⟨-, hw⟩ | ⟨-, hw⟩ <;> rw [hw] <;> simp

@[simp] theorem writeCtrl_inputs (s : State) (v : Word) : (writeCtrl s v).inputs = s.inputs := by
  rcases writeCtrl_cases s v with ⟨-, hw⟩ | ⟨-, hw⟩ <;> rw [hw] <;> simp

/-- No host write changes the parameters or the events still to come. -/
theorem busWrite_params_inputs (s : State) (off : Nat) (z : Size) (v : Word) :
    (busWrite s off z v).params = s.params ∧ (busWrite s off z v).inputs = s.inputs := by
  rcases busWrite_cases s off z v with h | h | ⟨-, h⟩ | ⟨-, -, h⟩ | ⟨-, -, h⟩ | ⟨-, -, -, h⟩ | ⟨-, -, -, h⟩ |
    ⟨-, -, -, h⟩ | ⟨-, -, -, h⟩ | ⟨-, -, -, h⟩ | ⟨-, -, -, h⟩ <;> rw [h] <;> simp [busError]

theorem step_params (h : step s = .next t) : t.params = s.params := by
  rcases step_unit_cases h with ⟨-, hx⟩ | ⟨-, l, r, n, rfl⟩ | ⟨rest, -, rfl⟩ | ⟨rest, addr, z, v, off, -, -, rfl⟩
  · exact (exec_completes hx).2.params
  · rfl
  · rfl
  · exact (busWrite_params_inputs _ off z v).1

/-- Settles O53, by all a step can do. -/
theorem stepKeepsParams : Obligations.StepKeepsParams := by
  unfold Obligations.StepKeepsParams
  exact fun s t => step_params

/-- A step takes the next event off the list. -/
theorem step_inputs (h : step s = .next t) : t.inputs = s.inputs.tail := by
  rcases step_cases h with ⟨hi, hT⟩ | ⟨rest, hi, hT⟩ | ⟨rest, hi, rfl⟩ | ⟨rest, addr, z, off, hi, -, rfl⟩ |
    ⟨rest, addr, z, v, off, hi, -, rfl⟩ <;> rw [hi]
  · rcases engineTurn_cases hT with ⟨-, rfl⟩ | ⟨-, hx⟩
    · exact hi
    · exact (exec_completes hx).2.inputs.trans hi
  · rcases engineTurn_cases hT with ⟨-, rfl⟩ | ⟨-, hx⟩
    · rfl
    · exact (exec_completes hx).2.inputs
  · rfl
  · rcases busRead_cases (setInputs s rest) off z with ⟨r, hr⟩ | ⟨-, hr⟩ <;> rw [hr] <;> rfl
  · exact (busWrite_params_inputs _ off z v).2

/-! ## The outputs (R29, R36) -/

/-- No host write but a reset changes the outputs of the last command. -/
theorem busWrite_keeps_outputs (h : z = .four → off = 0x004 → v.getLsbD 1 = false) :
    SameOutput s (busWrite s off z v) ∧ SameResults s (busWrite s off z v) := by
  rcases busWrite_cases s off z v with hw | hw | ⟨-, hw⟩ | ⟨hz, ho, hw⟩ | ⟨-, -, hw⟩ | ⟨-, -, -, hw⟩ | ⟨-, -, -, hw⟩ |
    ⟨-, -, -, hw⟩ | ⟨-, -, -, hw⟩ | ⟨-, -, -, hw⟩ | ⟨-, -, -, hw⟩ <;> rw [hw]
  any_goals exact ⟨⟨rfl, fun _ => rfl⟩, ⟨rfl, rfl⟩⟩
  rw [writeCtrl_of_not_reset (h hz ho)]
  exact ⟨⟨rfl, fun _ => rfl⟩, ⟨rfl, rfl⟩⟩

/-- Outputs change by a completion or a reset only. -/
theorem step_outputs_cases (h : step s = .next t) (hr : ∀ i rest, s.inputs = i :: rest → ¬ Input.resets s.params i) :
    (EngineNext s ∧ exec (latched s) (setInputs s s.inputs.tail) = .next t) ∨ (SameOutput s t ∧ SameResults s t) := by
  rcases step_unit_cases h with hx | ⟨-, l, r, n, rfl⟩ | ⟨rest, hi, -⟩ | ⟨rest, addr, z, v, off, hi, ho, rfl⟩
  · exact .inl hx
  · exact .inr ⟨⟨rfl, fun _ => rfl⟩, ⟨rfl, rfl⟩⟩
  · exact absurd trivial (hr _ rest hi)
  · obtain ⟨hout, hres⟩ := busWrite_keeps_outputs (s := setInputs s rest) (off := off) (z := z) (v := v)
      fun hz hoff => by
        subst hz hoff
        exact ctrl_write_of_not_resets ho (hr _ rest hi)
    exact .inr ⟨hout.of_setInputs, hres.of_setInputs⟩

theorem readsIn_or_u32pack_of_writesOut {c : Instr} (h : writesOut c = true) : readsIn c = true ∨ c = .u32pack := by
  cases c <;> simp [writesOut, readsIn] at h ⊢

/-- A completion step that changes a result is of a command that writes them; one that changes OUT or OUT_LEN is of a
command that writes OUT. -/
theorem exec_outputs {c : Instr} (h : exec c s = .next t) :
    (SameResults s t ∨ readsIn c = true ∨ c = .u32pack) ∧ (SameOutput s t ∨ writesOut c = true) := by
  rcases exec_cases h with ⟨e, rfl⟩ | ⟨r, r1, e, hc, rfl⟩ | ⟨w, r, r1, e, hc, -, rfl⟩
  · exact ⟨.inl (complete_onlyStatus s e).results, .inl (complete_onlyStatus s e).output⟩
  · exact ⟨.inr (.inl hc), .inl (setResults_sameOutput s r r1 e)⟩
  · exact ⟨.inr (readsIn_or_u32pack_of_writesOut hc), .inr hc⟩

theorem SameResults.not_changed (h : SameResults s t) : ¬ (t.result ≠ s.result ∨ t.result1 ≠ s.result1) :=
  not_or.mpr ⟨not_not.mpr h.result, not_not.mpr h.result1⟩

theorem SameOutput.not_changed (h : SameOutput s t) : ¬ (t.outLen ≠ s.outLen ∨ ∃ k, outByte t k ≠ outByte s k) :=
  not_or.mpr ⟨not_not.mpr h.outLen, fun ⟨k, hk⟩ => hk (h.outBytes k)⟩

/-- Settles O54: a step that is no reset keeps the outputs or is a completion, and of the completions only those of the
commands named change them. -/
theorem outputsChangeOnlyByCompletionOrReset : Obligations.OutputsChangeOnlyByCompletionOrReset := by
  unfold Obligations.OutputsChangeOnlyByCompletionOrReset
  intro s t h hr
  rcases step_outputs_cases h hr with ⟨he, hx⟩ | ⟨hout, hres⟩
  · obtain ⟨hres, hout⟩ := exec_outputs hx
    exact ⟨fun hne => ⟨he, hres.resolve_left fun hs => hs.of_setInputs.not_changed hne⟩,
      fun hne => ⟨he, hout.resolve_left fun hs => hs.of_setInputs.not_changed hne⟩⟩
  · exact ⟨fun hne => absurd hne hres.not_changed, fun hne => absurd hne hout.not_changed⟩

/-! ## The bytes of IN (R34, R67, R76) -/

@[simp] theorem writeReg_inByte (s : State) (r : Reg) (v : Word) (k : Nat) :
    inByte (writeReg s r v) k = inByte s k := by
  cases r with
  | ctrl => rcases writeCtrl_cases s v with ⟨-, hw⟩ | ⟨-, hw⟩ <;> rw [writeReg, hw] <;> simp
  | id | status | cmd | inLen | outLen | result | result1 | arg0 | arg1 | arg2 | rsv | cfg | inCap | outCap => rfl

/-- A host write keeps every IN byte but those that an IDLE write of the IN window covers. -/
theorem busWrite_inByte_cases (s : State) (off : Nat) (z : Size) (v : Word) (k : Nat) :
    inByte (busWrite s off z v) k = inByte s k ∨
      (s.busy = false ∧ off % sizeBytes z = 0 ∧ 0x4000 ≤ off ∧ off + sizeBytes z ≤ 0x4000 + s.params.inCap ∧
        off ≤ 0x4000 + k ∧ 0x4000 + k < off + sizeBytes z) := by
  rcases decodeAccess_cases s.params off z with ⟨r, -, rfl, -, hr⟩ | ⟨-, ha, h1, h2⟩ | ⟨hd, -⟩ | hd
  · rw [busWrite_register hr]
    refine .inl ?_
    split
    · rfl
    · exact writeReg_inByte s r v k
  · rw [busWrite_inWindow_of_le ha h1 h2]
    cases hb : s.busy with
    | true => exact .inl rfl
    | false =>
      by_cases hk : off ≤ 0x4000 + k ∧ 0x4000 + k < off + sizeBytes z
      · exact .inr ⟨rfl, ha, h1, h2, hk⟩
      · have hkeep := storeIn_inByte s (off - 0x4000) v (sizeBytes z) k
        rw [if_neg (by omega)] at hkeep
        exact .inl hkeep
  · unfold busWrite; rw [hd]; exact .inl rfl
  · unfold busWrite; rw [hd]; exact .inl rfl

/-- Settles O55, by all a step can do to a byte of IN. -/
theorem inBytesChangeOnlyByIdleWrites : Obligations.InBytesChangeOnlyByIdleWrites := by
  unfold Obligations.InBytesChangeOnlyByIdleWrites
  intro s t k h hne
  rcases step_unit_cases h with ⟨-, hx⟩ | ⟨-, l, r, n, rfl⟩ | ⟨rest, hi, -⟩ | ⟨rest, addr, z, v, off, hi, ho, rfl⟩
  · exact absurd ((exec_completes hx).2.inBytes k) hne
  · exact absurd rfl hne
  · exact ⟨_, rest, hi, .inr rfl⟩
  · rcases busWrite_inByte_cases (setInputs s rest) off z v k with hkeep | ⟨hb, ha, h1, h2, hk⟩
    · exact absurd hkeep hne
    · exact ⟨_, rest, hi, .inl ⟨hb, off, ho, ha, h1, h2, hk⟩⟩

/-! ## A command in progress (R74, R76, R167, R215) -/

theorem SameOperands.refl (s : State) : SameOperands s s := ⟨rfl, rfl, rfl, rfl, rfl, rfl, fun _ => rfl⟩

theorem SameOperands.trans (h : SameOperands s t) (h' : SameOperands t u) : SameOperands s u where
  params := h'.params.trans h.params
  lastOp := h'.lastOp.trans h.lastOp
  inLen := h'.inLen.trans h.inLen
  arg0 := h'.arg0.trans h.arg0
  arg1 := h'.arg1.trans h.arg1
  arg2 := h'.arg2.trans h.arg2
  inBytes k := (h'.inBytes k).trans (h.inBytes k)

/-- A host write while BUSY that is no reset keeps BUSY and the operands: the writes that would change them are
dropped. -/
theorem busWrite_keeps_operands (hb : s.busy = true) (h : z = .four → off = 0x004 → v.getLsbD 1 = false) :
    (busWrite s off z v).busy = true ∧ SameOperands s (busWrite s off z v) := by
  rcases busWrite_cases s off z v with hw | hw | ⟨-, hw⟩ | ⟨hz, ho, hw⟩ | ⟨-, -, hw⟩ | ⟨-, -, hidle, -⟩ |
    ⟨-, -, hidle, -⟩ | ⟨-, -, hidle, -⟩ | ⟨-, -, hidle, -⟩ | ⟨-, -, hidle, -⟩ | ⟨hidle, -, -, -⟩
  any_goals exact absurd (hb.symm.trans hidle) Bool.noConfusion
  · rw [hw]; exact ⟨hb, ⟨rfl, rfl, rfl, rfl, rfl, rfl, fun _ => rfl⟩⟩
  · rw [hw]; exact ⟨hb, ⟨rfl, rfl, rfl, rfl, rfl, rfl, fun _ => rfl⟩⟩
  · rw [hw]; exact ⟨hb, ⟨rfl, rfl, rfl, rfl, rfl, rfl, fun _ => rfl⟩⟩
  · rw [hw, writeCtrl_of_not_reset (h hz ho)]; exact ⟨hb, ⟨rfl, rfl, rfl, rfl, rfl, rfl, fun _ => rfl⟩⟩
  · rw [hw]; exact ⟨hb, ⟨rfl, rfl, rfl, rfl, rfl, rfl, fun _ => rfl⟩⟩

theorem step_keeps_operands (hb : s.busy = true) (he : ¬ EngineNext s)
    (hr : ∀ i rest, s.inputs = i :: rest → ¬ Input.resets s.params i) (h : step s = .next t) :
    t.busy = true ∧ SameOperands s t := by
  rcases step_unit_cases h with ⟨he', -⟩ | ⟨-, l, r, n, rfl⟩ | ⟨rest, hi, -⟩ | ⟨rest, addr, z, v, off, hi, ho, rfl⟩
  · exact absurd he' he
  · exact ⟨hb, ⟨rfl, rfl, rfl, rfl, rfl, rfl, fun _ => rfl⟩⟩
  · exact absurd trivial (hr _ rest hi)
  · obtain ⟨hbusy, hsame⟩ := busWrite_keeps_operands (s := setInputs s rest) (off := off) (z := z) (v := v) hb
      fun hz hoff => by
        subst hz hoff
        exact ctrl_write_of_not_resets ho (hr _ rest hi)
    exact ⟨hbusy, hsame.of_setInputs⟩

/-- Settles O58, by all a step of a BUSY ENGINE can do. -/
theorem operandsAreLockedWhileBusy : Obligations.OperandsAreLockedWhileBusy := by
  unfold Obligations.OperandsAreLockedWhileBusy
  exact fun s t => step_keeps_operands

/-- The ENGINE's turn comes at the latest when the list of events has run out, with the operands as they were. -/
theorem engineNext_reached (l : List Input) (hl : s.inputs = l) (hb : s.busy = true)
    (hev : ∀ i ∈ l, ¬ Input.resets s.params i ∧ Input.inWindow s.params i) :
    ∃ k t, k ≤ l.length ∧ Host.Core.run core k s = .next t ∧ EngineNext t ∧ SameOperands s t := by
  induction l generalizing s with
  | nil => exact ⟨0, s, Nat.le_refl _, rfl, ⟨hb, .inl hl⟩, .refl s⟩
  | cons i l ih =>
    by_cases he : EngineNext s
    · exact ⟨0, s, Nat.zero_le _, rfl, he, .refl s⟩
    have head {P : Input → Prop} (hP : P i) : ∀ j rest, s.inputs = j :: rest → P j := fun j rest hj => by
      rw [hl] at hj; cases hj; exact hP
    obtain ⟨hreset, hwindow⟩ := hev i List.mem_cons_self
    obtain ⟨t, ht⟩ := step_of_inWindow (head hwindow)
    obtain ⟨hbt, hst⟩ := step_keeps_operands hb he (head hreset) ht
    have hlt : t.inputs = l := by rw [step_inputs ht, hl, List.tail_cons]
    obtain ⟨k, u, hk, hrun, heu, hsu⟩ := ih hlt hbt fun j hj => by
      rw [hst.params]
      exact hev j (List.mem_cons_of_mem i hj)
    exact ⟨k + 1, u, Nat.succ_le_succ hk, (run_succ_of_next k ht).trans hrun, heu, hst.trans hsu⟩

/-- Settles O59: the turn is reached with the same LAST_OP, so it completes the command latched at the start. -/
theorem busyEngineCompletes : Obligations.BusyEngineCompletes := by
  unfold Obligations.BusyEngineCompletes
  intro s hb hev
  obtain ⟨k, t, hk, hrun, het, hst⟩ := engineNext_reached s.inputs rfl hb hev
  have hlatched : latched t = latched s := congrArg decodeOpcode hst.lastOp
  have hturn : step t = exec (latched s) (setInputs t t.inputs.tail) := hlatched ▸ step_of_engineNext het
  obtain ⟨u, hu⟩ := exec_next (latched s) (setInputs t t.inputs.tail)
  obtain ⟨⟨e, hdone⟩, -⟩ := exec_completes hu
  exact ⟨k, t, u, hk, hrun, het, hst, hturn, hturn.trans hu, hdone.idle, hdone.done⟩

end Sys2Proof.Machine
end

section
/-! The invariant `Legal` (spec/10_state.md R25, R29, R34; spec/60_exceptions.md R181): each operation of the unit keeps
it, so every step does. -/

namespace Sys2Proof.Machine

variable {s t : State} {p : Params} {off : Nat} {z : Size} {v : Word} {rest : List Input}

/-- A new STATUS that is legal keeps a state legal. -/
theorem Legal.of_status (h : Legal s) (params : t.params = s.params) (inBuf : t.inBuf = s.inBuf)
    (outBuf : t.outBuf = s.outBuf) (outLen : t.outLen = s.outLen) (status : StatusLegal t) : Legal t where
  params := params ▸ h.params
  status := status
  buffers := ⟨inBuf ▸ h.buffers.in_wf, outBuf ▸ h.buffers.out_wf, inBuf ▸ params ▸ h.buffers.in_bound,
    outBuf ▸ params ▸ h.buffers.out_bound⟩
  output := ⟨outLen ▸ params ▸ h.output.len_le, outLen ▸ outBuf ▸ h.output.specified⟩

/-- Legality is a matter of the parameters, STATUS, the buffers and OUT_LEN alone. -/
theorem Legal.congr (h : Legal s) (params : t.params = s.params) (busy : t.busy = s.busy) (done : t.done = s.done)
    (errcode : t.errcode = s.errcode) (inBuf : t.inBuf = s.inBuf) (outBuf : t.outBuf = s.outBuf)
    (outLen : t.outLen = s.outLen) : Legal t :=
  h.of_status params inBuf outBuf outLen
    ⟨busy ▸ done ▸ h.status.busy_not_done, busy ▸ errcode ▸ h.status.busy_no_error, errcode ▸ h.status.errcode_le⟩

/-- A STATUS with BUSY 0 is legal when ERRCODE is. -/
theorem StatusLegal.of_idle (hb : s.busy = false) (he : s.errcode.toNat ≤ 5) : StatusLegal s where
  busy_not_done h := by rw [hb] at h; cases h
  busy_no_error h := by rw [hb] at h; cases h
  errcode_le := he

theorem errBits_toNat_le (c : ErrCode) : (errBits c).toNat ≤ 5 := by cases c <;> decide

/-- The state after a hardware reset (R42). -/
theorem resetWith_legal (hp : p.wf = true) : Legal (State.resetWith p) where
  params := hp
  status := .of_idle rfl (Nat.zero_le _)
  buffers := ⟨rfl, rfl, fun k hk => by simp [State.resetWith] at hk, fun k hk => by simp [State.resetWith] at hk⟩
  output := ⟨Nat.zero_le _, fun k hk => by simp [State.resetWith] at hk⟩

/-- Settles O51: the buffers are empty, and OUT_LEN and ERRCODE are 0. -/
theorem resetIsLegal : Obligations.ResetIsLegal := by
  unfold Obligations.ResetIsLegal
  exact ⟨resetWith_legal (by decide), fun p => resetWith_legal⟩

/-! ## The operations -/

theorem Legal.setInputs (h : Legal s) (l : List Input) : Legal (setInputs s l) := h.congr rfl rfl rfl rfl rfl rfl rfl

theorem Legal.respond (h : Legal s) (r : Response) : Legal (respond s r) := h.congr rfl rfl rfl rfl rfl rfl rfl

theorem Legal.sameUnit (h : Legal s) (hu : SameUnit s t) : Legal t := by
  obtain ⟨l, r, n, rfl⟩ := hu
  exact h.congr rfl rfl rfl rfl rfl rfl rfl

theorem Legal.hardReset (h : Legal s) : Legal (hardReset s) :=
  (resetWith_legal h.params).congr rfl rfl rfl rfl rfl rfl rfl

theorem Legal.complete (h : Legal s) (c : ErrCode) : Legal (complete s c) :=
  h.of_status rfl rfl rfl rfl (.of_idle rfl (errBits_toNat_le c))

theorem Legal.setResults (h : Legal s) (r r1 : Word) : Legal (setResults s r r1) :=
  h.congr rfl rfl rfl rfl rfl rfl rfl

/-- The buffer of a byte string lists the indices below its length. -/
theorem isSome_memRead_memOfBytes (w : List Byte) (k : Nat) :
    (memRead (memOfBytes 0 w) k).isSome = decide (k < w.length) := by
  rw [memRead_memOfBytes, if_pos (Nat.zero_le k), Nat.sub_zero, Bool.eq_iff_iff]
  simp

/-- A string that fits OUT_CAP is a legal output: OUT_LEN is its length and its bytes are the specified ones. -/
theorem Legal.putOutput (h : Legal s) {w : List Byte} (hw : w.length ≤ s.params.outCap) (r r1 : Word) :
    Legal (putOutput s w r r1) where
  params := h.params
  status := ⟨h.status.busy_not_done, h.status.busy_no_error, h.status.errcode_le⟩
  buffers := ⟨h.buffers.in_wf, Memory.wf_memOfBytes w 0, h.buffers.in_bound, fun k hk => by
    rw [putOutput_outBuf, isSome_memRead_memOfBytes, decide_eq_true_eq] at hk
    exact Nat.lt_of_lt_of_le hk hw⟩
  output := by
    have hlen : (Machine.putOutput s w r r1).outLen.toNat = w.length :=
      (putOutput_outputIs s w r r1 .ok (length_lt_of_le_outCap h.params hw)).outLen
    exact ⟨hlen ▸ hw, fun k hk => by
      rw [putOutput_outBuf, isSome_memRead_memOfBytes, decide_eq_true_eq]
      exact hlen ▸ hk⟩

/-- No byte counts as valid output once OUT_LEN is 0 (R42). -/
theorem Legal.resetRegisters (h : Legal s) : Legal (resetRegisters s) where
  params := h.params
  status := .of_idle rfl (Nat.zero_le _)
  buffers := ⟨h.buffers.in_wf, h.buffers.out_wf, h.buffers.in_bound, h.buffers.out_bound⟩
  output := ⟨Nat.zero_le _, fun k hk => absurd hk (Nat.not_lt_zero k)⟩

theorem Legal.softReset (h : Legal s) : Legal (softReset s) := by
  rw [softReset_eq]
  split
  · exact (h.putOutput (w := []) (Nat.zero_le _) 0#32 0#32).resetRegisters.congr rfl rfl rfl rfl rfl rfl rfl
  · exact h.resetRegisters

theorem Legal.writeCtrl (h : Legal s) (v : Word) : Legal (writeCtrl s v) := by
  rcases writeCtrl_cases s v with ⟨-, hw⟩ | ⟨-, hw⟩ <;> rw [hw]
  · exact h.softReset
  · exact h.congr rfl rfl rfl rfl rfl rfl rfl

theorem Legal.writeStatus (h : Legal s) (v : Word) : Legal (writeStatus s v) :=
  h.of_status rfl rfl rfl rfl
    ⟨fun hb => by rw [writeStatus_done, h.status.busy_not_done hb, Bool.false_and], h.status.busy_no_error,
      h.status.errcode_le⟩

theorem Legal.issue (h : Legal s) (v : Word) : Legal (issue s v) :=
  h.of_status rfl rfl rfl rfl ⟨fun _ => rfl, fun _ => rfl, Nat.zero_le _⟩

/-- A store that stays in the window lists no index beyond IN_CAP. -/
theorem Legal.storeIn (h : Legal s) {k n : Nat} (hk : k + n ≤ s.params.inCap) (v : Word) : Legal (storeIn s k v n) where
  params := h.params
  status := ⟨h.status.busy_not_done, h.status.busy_no_error, h.status.errcode_le⟩
  buffers := ⟨Memory.wf_storeLanes k v n h.buffers.in_wf, h.buffers.out_wf, fun j hj => by
    rw [storeIn_inBuf, memRead_storeLanes] at hj
    split at hj
    · exact Nat.lt_of_lt_of_le (by omega) hk
    · exact h.buffers.in_bound j hj, h.buffers.out_bound⟩
  output := ⟨h.output.len_le, h.output.specified⟩

/-! ## The steps -/

theorem exec_keeps_legal {c : Instr} (hs : Legal s) (h : exec c s = .next t) : Legal t := by
  rcases exec_cases h with ⟨e, rfl⟩ | ⟨r, r1, e, -, rfl⟩ | ⟨w, r, r1, e, -, hw, rfl⟩
  · exact hs.complete e
  · exact (hs.setResults r r1).complete e
  · have hfits : w.length ≤ s.params.outCap := by
      rcases hw with hw | ⟨-, rfl⟩
      · exact hw
      · obtain ⟨-, -, hcap, -⟩ := wf_caps hs.params
        exact Nat.le_trans (by decide : 4 ≤ 6) hcap
    exact (hs.putOutput hfits r r1).complete e

theorem busWrite_keeps_legal (hs : Legal s) (off : Nat) (z : Size) (v : Word) : Legal (busWrite s off z v) := by
  rcases busWrite_cases s off z v with hw | hw | ⟨-, hw⟩ | ⟨-, -, hw⟩ | ⟨-, -, hw⟩ | ⟨-, -, -, hw⟩ | ⟨-, -, -, hw⟩ |
    ⟨-, -, -, hw⟩ | ⟨-, -, -, hw⟩ | ⟨-, -, -, hw⟩ | ⟨-, h1, h2, hw⟩ <;> rw [hw]
  any_goals exact hs.congr rfl rfl rfl rfl rfl rfl rfl
  · exact (hs.writeCtrl v).respond _
  · exact (hs.writeStatus v).respond _
  · exact (hs.issue v).respond _
  · exact (hs.storeIn (by omega) v).respond _

/-- Settles O52, by all a step can do. -/
theorem stepKeepsLegal : Obligations.StepKeepsLegal := by
  unfold Obligations.StepKeepsLegal
  intro s t hs h
  rcases step_unit_cases h with ⟨-, hx⟩ | ⟨-, hu⟩ | ⟨rest, -, rfl⟩ | ⟨rest, addr, z, v, off, -, -, rfl⟩
  · exact exec_keeps_legal (hs.setInputs _) hx
  · exact hs.sameUnit hu
  · exact (hs.setInputs rest).hardReset
  · exact busWrite_keeps_legal (hs.setInputs rest) off z v

end Sys2Proof.Machine
end

section
/-! The slave port, access by access (spec/20_memory.md R66, R69, R76; spec/10_state.md R27 to R32, R39): what the port
answers while BUSY, what it reads back while IDLE, and that a read leaves the unit alone. -/

namespace Sys2Proof.Machine

variable {s t : State} {off k : Nat} {z : Size} {r : Reg} {v : Word}

/-! ## While BUSY -/

theorem busWrite_locked_of_busy (hb : s.busy = true) (h : regAt off = some r) (hr : lockedReg r = true) :
    busWrite s off .four v = respond (dropLockedWrite s) .accepted := by
  rw [busWrite_register h, hb, hr, Bool.and_true, if_pos rfl]

theorem busRead_any_of_busy (hb : s.busy = true) (h : regAt off = some r) (hr : anyWhileBusy r = true) :
    busRead s off .four = respondAny s 4 := by
  rw [busRead_register h, hb, hr, Bool.and_true, if_pos rfl]

/-- The registers whose busy reads are free are OUT_LEN, RESULT and RESULT1 (R39). -/
theorem anyWhileBusy_iff (h : regAt off = some r) : anyWhileBusy r = true ↔ off ∈ [0x014, 0x018, 0x01C] := by
  unfold regAt at h
  split at h <;> cases h <;> simp [anyWhileBusy]

/-- A free value of `n` bytes, as a number (log 7). -/
theorem toNat_freeBytes (w : Word) {n : Nat} (hn : n ≤ 4) :
    ((w.setWidth (8 * n)).setWidth 32).toNat = w.toNat % 2 ^ (8 * n) := by
  rw [BitVec.toNat_setWidth, BitVec.toNat_setWidth]
  refine Nat.mod_eq_of_lt (Nat.lt_of_lt_of_le (Nat.mod_lt _ (Nat.two_pow_pos _)) ?_)
  exact Nat.pow_le_pow_right (by decide) (by omega)

/-- Settles O46, each kind of access by its own rule of the port. -/
theorem accessesWhileBusy : Obligations.AccessesWhileBusy := by
  unfold Obligations.AccessesWhileBusy
  intro s v hp hb
  refine ⟨fun off hoff => ?_, fun k z ha hk => ?_, fun off hoff => busWrite_readOnly hoff,
    fun k z ha hk => busWrite_outWindow hp ha hk, busWrite_ctrl s v, busWrite_status s v, fun off hoff => ?_,
    fun k z ha hk => ?_, fun off r hr hoff => ?_, fun k z ha hk => busRead_inWindow hp ha hk⟩
  · simp only [List.mem_cons, List.not_mem_nil, or_false] at hoff
    obtain ⟨r, hr⟩ : ∃ r, regAt off = some r := regAt_isSome (by omega) (by omega)
    exact busWrite_locked_of_busy hb hr ((lockedReg_iff hr).mpr hoff)
  · rw [busWrite_inWindow hp ha hk, if_pos hb]
    rfl
  · have hmem := hoff
    simp only [List.mem_cons, List.not_mem_nil, or_false] at hoff
    obtain ⟨r, hr⟩ : ∃ r, regAt off = some r := regAt_isSome (by omega) (by omega)
    rw [busRead_any_of_busy hb hr ((anyWhileBusy_iff hr).mpr hmem), respondAny, BitVec.setWidth_eq, BitVec.setWidth_eq]
    rfl
  · rw [busRead_outWindow hp ha hk, if_pos hb]
    exact ⟨_, rfl, toNat_freeBytes _ (sizeBytes_le_four z)⟩
  · exact busRead_of_not_any hr (Bool.eq_false_iff.mpr fun hany => hoff ((anyWhileBusy_iff hr).mp hany))

/-! ## While IDLE -/

theorem busRead_register_of_idle (hb : s.busy = false) (h : regAt off = some r) :
    busRead s off .four = respond s (.data (readReg s r)) := by
  rw [busRead_register h, hb, Bool.false_and, if_neg Bool.false_ne_true]

theorem busWrite_register_of_idle (hb : s.busy = false) (h : regAt off = some r) :
    busWrite s off .four v = respond (writeReg s r v) .accepted := by
  rw [busWrite_register h, hb, Bool.false_and, if_neg Bool.false_ne_true]

/-- The low half of a word, zero-extended (R28). -/
theorem setWidth_setWidth_16 (v : Word) : (v.setWidth 16).setWidth 32 = v &&& 0xFFFF#32 := by
  apply BitVec.eq_of_toNat_eq
  have h : v.toNat &&& 65535 = v.toNat % 65536 := Nat.and_two_pow_sub_one_eq_mod v.toNat 16
  simp only [BitVec.toNat_setWidth, BitVec.toNat_and, BitVec.toNat_ofNat, Nat.reducePow, Nat.reduceMod, h]
  omega

/-- Settles O48: an IDLE write stores in its register alone, and an IDLE read returns the register. -/
theorem operandRegistersReadBack : Obligations.OperandRegistersReadBack := by
  unfold Obligations.OperandRegistersReadBack
  intro s v hb
  have readBack {off : Nat} {r : Reg} (h : regAt off = some r) (hb' : (writeReg s r v).busy = false) :
      busRead (busWrite s off .four v) off .four = respond (writeReg s r v) (.data (readReg (writeReg s r v) r)) := by
    rw [busWrite_register_of_idle hb h, busRead_register_of_idle (by exact hb') h]
    cases r <;> rfl
  refine ⟨?_, readBack (r := .arg0) rfl hb, readBack (r := .arg1) rfl hb, readBack (r := .arg2) rfl hb,
    busRead_register_of_idle (r := .cmd) hb rfl, busRead_register_of_idle (r := .outLen) hb rfl,
    busRead_register_of_idle (r := .result) hb rfl, busRead_register_of_idle (r := .result1) hb rfl⟩
  rw [readBack (r := .inLen) rfl hb, ← setWidth_setWidth_16]
  rfl

/-- The port's answer to the latest access has no part in the answer to the next. -/
theorem busRead_respond_response (s : State) (r : Response) (off : Nat) (z : Size) :
    (busRead (respond s r) off z).response = (busRead s off z).response := by
  unfold busRead
  rw [respond_params]
  cases decodeAccess s.params off z with
  | none => rfl
  | some g =>
    cases g with
    | register q =>
      have hq : readReg (respond s r) q = readReg s q := by cases q <;> rfl
      dsimp only
      rw [respond_busy, hq]
      split <;> rfl
    | inWindow k => rfl
    | outWindow k =>
      dsimp only
      rw [respond_busy]
      split <;> rfl

/-- Settles O49: a read is its answer, and one draw while BUSY; an answer has no part in the next read. -/
theorem readsHaveNoSideEffect : Obligations.ReadsHaveNoSideEffect := by
  unfold Obligations.ReadsHaveNoSideEffect
  refine fun s off z => ⟨?_, fun hb off' z' => ?_⟩
  · rcases busRead_cases s off z with ⟨r, hr⟩ | ⟨hb, hr⟩
    · exact ⟨r, s.draws, hr, fun _ => rfl⟩
    · exact ⟨_, _, hr, fun hidle => by rw [hb] at hidle; cases hidle⟩
  · obtain ⟨r, hr⟩ := busRead_of_idle (off := off') (z := z') hb
    rw [hr, busRead_respond_response]

/-! ## The registers after a reset (R42, R212) -/

/-- After a soft reset every register reads what it reads after a hardware reset. -/
theorem readReg_softReset (hp : s.params = t.params) (r : Reg) : readReg (softReset s) r = readReg (hardReset t) r := by
  cases r with
  | rsv | cfg | inCap | outCap => simp only [readReg, softReset_params, hardReset_params, hp]
  | id | ctrl | status | cmd | inLen | outLen | result | result1 | arg0 | arg1 | arg2 => rfl

/-- Settles O45: the reset event leaves the reset state with the events to come, register by register. -/
theorem hardwareReset : Obligations.HardwareReset := by
  unfold Obligations.HardwareReset
  intro s rest hi
  refine ⟨_, step_of_hardReset hi, rfl, rfl, statusWord_eq_zero rfl rfl rfl rfl, rfl, rfl, rfl, rfl, rfl, rfl, rfl, rfl,
    rfl, fun r hr => ?_, rfl, fun _ => rfl, fun _ => rfl, rfl, rfl, fun v hv r => ?_⟩
  · simp only [List.mem_cons, List.not_mem_nil, or_false] at hr
    rcases hr with rfl | rfl | rfl | rfl <;> rfl
  · rw [busWrite_ctrl_of_reset hv]
    have hanswer : readReg (respond (softReset s) .accepted) r = readReg (softReset s) r := by cases r <;> rfl
    exact hanswer.trans (readReg_softReset rfl r)

end Sys2Proof.Machine
end

section
/-! The laws of the radix codec (spec/40_framing.md R106), for the default pair and for the pair that well-formed
parameters name. -/

namespace Sys2Proof.Machine

variable {b : Nat} {p : Params}

theorem ofBase_toBase (hb : 1 < b) (v : Nat) : ofBase b (toBase b v) = v := by
  rw [ofBase_eq_radixValue, radixValue_toBase hb]

/-- Digits below the base with a first digit other than 0 are the representation of their value. -/
theorem toBase_ofBase (hb : 1 < b) {d : Nat} {ds : List Nat} (hd : d ≠ 0) (hlt : ∀ x ∈ d :: ds, x < b) :
    toBase b (ofBase b (d :: ds)) = d :: ds := by
  rw [toBase_eq_digits hb, ofBase_eq_ofDigits, Nat.digits_ofDigits b hb, List.reverse_reverse]
  · exact fun x hx => hlt x (List.mem_reverse.mp hx)
  · intro _
    rwa [List.getLast_reverse, List.head_cons]

theorem bytes_lt (t : List Byte) : ∀ x ∈ t.map BitVec.toNat, x < 256 := by
  intro x hx
  obtain ⟨y, -, rfl⟩ := List.mem_map.mp hx
  exact y.isLt

/-- A byte `c` before a string is the digit before its bytes. -/
theorem ofBase_cons_bytes (c : Nat) (t : List Byte) :
    ofBase 256 (c :: t.map BitVec.toNat) = c * 256 ^ t.length + beNat t := by
  rw [ofBase_eq_radixValue, radixValue, List.length_map, beNat_eq_radixValue]

/-- The base-256 representation of the number with the sentinel: the sentinel byte, then the bytes of the string (R104).
-/
theorem toBase_sentinel (t : List Byte) : toBase 256 (256 ^ t.length + beNat t) = 1 :: t.map BitVec.toNat := by
  rw [← Nat.one_mul (256 ^ t.length), ← ofBase_cons_bytes]
  refine toBase_ofBase (by decide) one_ne_zero fun x hx => ?_
  rcases List.mem_cons.mp hx with rfl | hx
  · decide
  · exact bytes_lt t x hx

theorem map_ofNat_map_toNat (t : List Byte) : (t.map BitVec.toNat).map (BitVec.ofNat 8) = t := by
  simp [Function.comp_def]

/-- The default pair meets the laws in every base (R106). -/
theorem sentinelPair_lawful (hb : 1 < b) : (sentinelPair b).Lawful b where
  digits_lt t x hx := toBase_lt hb hx
  round_trip t := by
    change ((toBase 256 (ofBase b (toBase b (256 ^ t.length + beNat t)))).map (BitVec.ofNat 8)).tail = t
    rw [ofBase_toBase hb, toBase_sentinel, List.map_cons, List.tail_cons, map_ofNat_map_toNat]

/-- The pair that well-formed parameters name meets the laws: it is the default one, or a substitute, of which only
lawful ones can be named (log 4). -/
theorem codecOf_lawful (hp : p.wf = true) : (codecOf p).Lawful (reducedBase p) := by
  cases hc : p.codec with
  | sentinel =>
    rw [codecOf, hc]
    exact sentinelPair_lawful (one_lt_reducedBase hp)
  | substitute id =>
    obtain ⟨c, -, hcodec⟩ := codecOf_substitute hp hc
    exact hcodec ▸ c.property

/-- Settles O26, for the default pair by the digits of its number and for a substitute by what it can be. -/
theorem sentinelCodecIsLawful : Obligations.SentinelCodecIsLawful := by
  unfold Obligations.SentinelCodecIsLawful
  exact fun p hp => ⟨sentinelPair_lawful (one_lt_reducedBase hp),
    ⟨(codecOf_lawful hp).digits_lt, (codecOf_lawful hp).round_trip⟩⟩

end Sys2Proof.Machine
end

section
/-! The substitution and its inverse (spec/40_framing.md R107, R108), the wire (R112), and that a frame parses back to
its payload (R113), as functions and as the two commands (R116, R117). -/

namespace Sys2Proof.Machine

variable {p : Params} {c : RadixPair} {i x : Nat} {r y : Byte}

/-! ## The substitution (R107) -/

/-- R6 for well-formed parameters: the reserved values are distinct, the delimiter is one of them, and no substitute is
reserved. -/
theorem reserved_of_wf (hp : p.wf = true) : p.reserved.Nodup ∧ delimiter ∈ p.reserved ∧
    ∀ i r, p.reserved[i]? = some r → r.toNat < reducedBase p → BitVec.ofNat 8 (reducedBase p + i) ∉ p.reserved := by
  obtain ⟨-, -, -, -, -, hres, -⟩ := params_wf_iff.mp hp
  obtain ⟨-, -, hnodup, hdelim, hsub⟩ := reservedWf_iff.mp hres
  exact ⟨hnodup, hdelim, hsub⟩

theorem subDigit_reserved (hp : p.wf = true) (hr : p.reserved[i]? = some r) :
    subDigit p r.toNat = BitVec.ofNat 8 (reducedBase p + i) := by
  obtain ⟨hi, hget⟩ := List.getElem?_eq_some_iff.mp hr
  have hfind : p.reserved.findIdx? (fun r' => r'.toNat == r.toNat) = some i := by
    refine List.findIdx?_eq_some_iff_getElem.mpr ⟨hi, by simp [hget], fun j hj => ?_⟩
    have hne : p.reserved[j] ≠ r := by
      rw [← hget, Ne, (reserved_of_wf hp).1.getElem_inj_iff]
      omega
    simpa [BitVec.toNat_inj] using hne
  rw [subDigit, hfind]

theorem subDigit_not_reserved (hx : x < 256) (hr : BitVec.ofNat 8 x ∉ p.reserved) :
    subDigit p x = BitVec.ofNat 8 x := by
  have hfind : p.reserved.findIdx? (fun r => r.toNat == x) = none := by
    refine List.findIdx?_eq_none_iff.mpr fun r hmem => ?_
    rw [beq_eq_false_iff_ne]
    rintro rfl
    exact hr (by simpa using hmem)
  rw [subDigit, hfind]

/-- Settles O27, by the index that the substitution looks up. -/
theorem substitutionOfDigits : Obligations.SubstitutionOfDigits := by
  unfold Obligations.SubstitutionOfDigits
  exact fun p hp => ⟨fun i r => subDigit_reserved hp, fun x => subDigit_not_reserved, fun ds => rfl⟩

/-- A digit is a reserved value below B with its substitute, or a byte that is not reserved and stands for itself. -/
theorem digit_cases (hp : p.wf = true) (hx : x < reducedBase p) :
    (∃ i r, p.reserved[i]? = some r ∧ x = r.toNat ∧ subDigit p x = BitVec.ofNat 8 (reducedBase p + i)) ∨
      (BitVec.ofNat 8 x ∉ p.reserved ∧ subDigit p x = BitVec.ofNat 8 x) := by
  obtain ⟨-, -, -, -, hB⟩ := wf_base hp
  by_cases hr : BitVec.ofNat 8 x ∈ p.reserved
  · obtain ⟨i, hi⟩ := List.mem_iff_getElem?.mp hr
    have hsub := subDigit_reserved hp hi
    have hx' : (BitVec.ofNat 8 x).toNat = x := byte_toNat_ofNat (by omega)
    exact .inl ⟨i, _, hi, hx'.symm, hx' ▸ hsub⟩
  · exact .inr ⟨hr, subDigit_not_reserved (by omega) hr⟩

/-- No substituted digit is a reserved byte (R112). -/
theorem subDigit_not_mem (hp : p.wf = true) (hx : x < reducedBase p) : subDigit p x ∉ p.reserved := by
  rcases digit_cases hp hx with ⟨i, r, hr, rfl, hsub⟩ | ⟨hnr, hsub⟩
  · exact hsub ▸ (reserved_of_wf hp).2.2 i r hr hx
  · exact hsub ▸ hnr

/-- `unsub` undoes `sub` (R108). -/
theorem unsubByte_subDigit (hp : p.wf = true) (hx : x < reducedBase p) : unsubByte p (subDigit p x) = x := by
  obtain ⟨-, -, -, -, hB⟩ := wf_base hp
  rcases digit_cases hp hx with ⟨i, r, hr, rfl, hsub⟩ | ⟨-, hsub⟩
  · rw [hsub, unsubByte_substitute hp hr hx]
  · have hx' : (BitVec.ofNat 8 x).toNat = x := byte_toNat_ofNat (by omega)
    rw [hsub, unsubByte_of_not_substitute (fun i r _ _ => by rw [hx']; omega), hx']

/-- The byte from B on that the reserved value r_i takes: its substitute, if it is below B, else itself. -/
def topByte (p : Params) (i : Nat) : Nat :=
  if (p.reserved.getD i 0#8).toNat < reducedBase p then reducedBase p + i else (p.reserved.getD i 0#8).toNat

theorem topByte_cases (hr : p.reserved[i]? = some r) :
    (r.toNat < reducedBase p ∧ topByte p i = reducedBase p + i) ∨
      (reducedBase p ≤ r.toNat ∧ topByte p i = r.toNat) := by
  have hget : p.reserved.getD i 0#8 = r := by rw [List.getD_eq_getElem?_getD, hr, Option.getD_some]
  rw [topByte, hget]
  split
  · exact .inl ⟨by assumption, rfl⟩
  · exact .inr ⟨by omega, rfl⟩

/-- A substitute is no reserved value (R6 item 4). -/
theorem substitute_ne_reserved (hp : p.wf = true) {j : Nat} {q : Byte} (hr : p.reserved[i]? = some r)
    (hlt : r.toNat < reducedBase p) (hq : p.reserved[j]? = some q) : reducedBase p + i ≠ q.toNat := by
  intro heq
  refine (reserved_of_wf hp).2.2 i r hr hlt ?_
  rw [heq, BitVec.ofNat_toNat, BitVec.setWidth_eq]
  exact List.mem_of_getElem? hq

/-- Distinct reserved values take distinct bytes. -/
theorem topByte_injOn (hp : p.wf = true) : Set.InjOn (topByte p) (Finset.range p.reserved.length) := by
  intro i hi j hj heq
  have hri := List.getElem?_eq_getElem (Finset.mem_range.mp hi)
  have hrj := List.getElem?_eq_getElem (Finset.mem_range.mp hj)
  rcases topByte_cases hri with ⟨hi', hti⟩ | ⟨hi', hti⟩ <;> rcases topByte_cases hrj with ⟨hj', htj⟩ | ⟨hj', htj⟩ <;>
    rw [hti, htj] at heq
  · omega
  · exact absurd heq (substitute_ne_reserved hp hri hi' hrj)
  · exact absurd heq.symm (substitute_ne_reserved hp hrj hj' hri)
  · exact ((reserved_of_wf hp).1.getElem_inj_iff).mp (BitVec.eq_of_toNat_eq heq)

/-- As many bytes stand from B on as there are reserved values, so each of them is taken. -/
theorem topByte_surjOn (hp : p.wf = true) :
    Set.SurjOn (topByte p) (Finset.range p.reserved.length) (Finset.Ico (reducedBase p) 256) := by
  obtain ⟨-, -, hsum, -, -⟩ := wf_base hp
  refine Finset.surjOn_of_injOn_of_card_le _ (fun i hi => ?_) (topByte_injOn hp) (by simp; omega)
  have hi : i < p.reserved.length := Finset.mem_range.mp hi
  rw [Finset.mem_coe, Finset.mem_Ico]
  rcases topByte_cases (List.getElem?_eq_getElem hi) with ⟨-, ht⟩ | ⟨hle, ht⟩ <;> rw [ht]
  · omega
  · exact ⟨hle, BitVec.isLt _⟩

/-- A byte that is not reserved is a digit, or the substitute of a reserved value below B. -/
theorem byte_cases (hp : p.wf = true) (hy : y ∉ p.reserved) : y.toNat < reducedBase p ∨
    ∃ i r, p.reserved[i]? = some r ∧ r.toNat < reducedBase p ∧ BitVec.ofNat 8 (reducedBase p + i) = y := by
  refine or_iff_not_imp_left.mpr fun hle => ?_
  obtain ⟨i, hi, hty⟩ := topByte_surjOn hp (Finset.mem_coe.mpr (Finset.mem_Ico.mpr ⟨Nat.le_of_not_lt hle, y.isLt⟩))
  have hr := List.getElem?_eq_getElem (Finset.mem_range.mp hi)
  rcases topByte_cases hr with ⟨hlt, ht⟩ | ⟨-, ht⟩ <;> rw [ht] at hty
  · exact ⟨i, _, hr, hlt, by rw [hty, BitVec.ofNat_toNat, BitVec.setWidth_eq]⟩
  · exact absurd (BitVec.eq_of_toNat_eq hty ▸ List.getElem_mem _) hy

theorem unsubByte_of_lt (hy : y.toNat < reducedBase p) : unsubByte p y = y.toNat :=
  unsubByte_of_not_substitute fun i r _ _ => by omega

/-- Cleaning a byte that is not reserved gives a digit (R108, R112). -/
theorem unsubByte_lt (hp : p.wf = true) (hy : y ∉ p.reserved) : unsubByte p y < reducedBase p := by
  rcases byte_cases hp hy with hlt | ⟨i, r, hr, hlt, rfl⟩
  · rwa [unsubByte_of_lt hlt]
  · rwa [unsubByte_substitute hp hr hlt]

/-- `sub` undoes `unsub` on the bytes that are not reserved. -/
theorem subDigit_unsubByte (hp : p.wf = true) (hy : y ∉ p.reserved) : subDigit p (unsubByte p y) = y := by
  rcases byte_cases hp hy with hlt | ⟨i, r, hr, hlt, rfl⟩
  · have hbyte : BitVec.ofNat 8 y.toNat = y := by rw [BitVec.ofNat_toNat, BitVec.setWidth_eq]
    rw [unsubByte_of_lt hlt, subDigit_not_reserved y.isLt (hbyte.symm ▸ hy), hbyte]
  · rw [unsubByte_substitute hp hr hlt, subDigit_reserved hp hr]

/-! ## The wire (R109, R112) -/

theorem stripReserved_subst (hp : p.wf = true) {ds : List Nat} (hd : ∀ x ∈ ds, x < reducedBase p) :
    stripReserved p (subst p ds) = subst p ds := by
  rw [stripReserved_eq, List.filter_eq_self]
  intro y hy
  obtain ⟨x, hx, rfl⟩ := List.mem_map.mp hy
  exact decide_eq_true (subDigit_not_mem hp (hd x hx))

theorem map_unsubByte_subst (hp : p.wf = true) {ds : List Nat} (hd : ∀ x ∈ ds, x < reducedBase p) :
    (subst p ds).map (unsubByte p) = ds := by
  rw [subst, List.map_map]
  exact (List.map_congr_left fun x hx => unsubByte_subDigit hp (hd x hx)).trans (List.map_id ds)

theorem clean_subst (hp : p.wf = true) {ds : List Nat} (hd : ∀ x ∈ ds, x < reducedBase p) :
    clean p (subst p ds) = ds := by
  rw [clean, stripReserved_subst hp hd, map_unsubByte_subst hp hd]

theorem clean_lt (hp : p.wf = true) (body : List Byte) : ∀ x ∈ clean p body, x < reducedBase p := by
  intro x hx
  rw [clean, stripReserved_eq] at hx
  obtain ⟨y, hy, rfl⟩ := List.mem_map.mp hx
  exact unsubByte_lt hp (of_decide_eq_true (List.mem_filter.mp hy).2)

/-- The body of a frame: the substituted digits, without the delimiter. -/
theorem frameWith_dropLast (c : RadixPair) (p : Params) (payload : List Byte) :
    (frameWith c p payload).dropLast = subst p (c.toRadix (payload ++ be32 (crc32 payload))) := by
  rw [frameWith, List.dropLast_concat]

/-- R112 for one codec: the delimiter ends the frame, no byte before it is reserved, so it occurs once. -/
theorem frameWith_wire (hp : p.wf = true) (hc : c.Lawful (reducedBase p)) (payload : List Byte) :
    (frameWith c p payload).getLast? = some delimiter ∧
      (∀ y ∈ (frameWith c p payload).dropLast, y ∉ p.reserved) ∧ (frameWith c p payload).count delimiter = 1 := by
  have hbody : ∀ y ∈ (frameWith c p payload).dropLast, y ∉ p.reserved := by
    intro y hy
    rw [frameWith_dropLast] at hy
    obtain ⟨x, hx, rfl⟩ := List.mem_map.mp hy
    exact subDigit_not_mem hp (hc.digits_lt _ x hx)
  refine ⟨List.getLast?_concat, hbody, ?_⟩
  have hnone : (subst p (c.toRadix (payload ++ be32 (crc32 payload)))).count delimiter = 0 :=
    List.count_eq_zero.mpr fun hmem =>
      hbody delimiter (frameWith_dropLast c p payload ▸ hmem) (reserved_of_wf hp).2.1
  rw [frameWith, List.count_append, hnone, List.count_singleton_self]

/-- Settles O30: the wire for each lawful codec, and the facts on digits it rests on. -/
theorem wireGuarantee : Obligations.WireGuarantee := by
  unfold Obligations.WireGuarantee
  intro p hp payload
  obtain ⟨hlast, hbody, hcount⟩ := frameWith_wire hp (codecOf_lawful hp) payload
  refine ⟨hlast, hbody, hcount, fun c hc => frameWith_wire hp hc payload,
    fun x hx => ⟨subDigit_not_mem hp hx, ?_⟩, fun body => clean_lt hp body⟩
  exact clean_subst hp (ds := [x]) fun x' hx' => List.mem_singleton.mp hx' ▸ hx

/-! ## The round trip (R113) -/

theorem deframeWith_append_delimiter (c : RadixPair) (p : Params) (body : List Byte) :
    deframeWith c p (body ++ [delimiter]) = checkTrailer (c.fromRadix (clean p body)) := by
  rw [deframeWith, List.getLast?_concat, if_pos rfl, List.dropLast_concat]

/-- The trailer that Frame writes is accepted (R102, R111). -/
theorem checkTrailer_frame (payload : List Byte) :
    checkTrailer (payload ++ be32 (crc32 payload)) = .ok payload (crc32 payload) := by
  have hword := wordOfLanes_lanes (crc32 payload)
  rw [be32, checkTrailer_append]
  exact if_pos hword.symm

/-- A body that is the substituted digits of a string, with reserved bytes inserted or not, is read as that string. -/
theorem deframeWith_body (hp : p.wf = true) (hc : c.Lawful (reducedBase p)) {t body : List Byte}
    (hbody : stripReserved p body = subst p (c.toRadix t)) :
    deframeWith c p (body ++ [delimiter]) = checkTrailer t := by
  rw [deframeWith_append_delimiter, clean, hbody, map_unsubByte_subst hp (hc.digits_lt t), hc.round_trip]

/-- R113 for one codec. -/
theorem deframeWith_frameWith (hp : p.wf = true) (hc : c.Lawful (reducedBase p)) (payload : List Byte) :
    deframeWith c p (frameWith c p payload) = .ok payload (crc32 payload) := by
  rw [frameWith, deframeWith_body hp hc (stripReserved_subst hp (hc.digits_lt _)), checkTrailer_frame]

theorem deframeWith_inserted (hp : p.wf = true) (hc : c.Lawful (reducedBase p)) {payload body : List Byte}
    (hbody : body.filter (fun y => decide (y ∉ p.reserved)) = (frameWith c p payload).dropLast) :
    deframeWith c p (body ++ [delimiter]) = .ok payload (crc32 payload) := by
  rw [← stripReserved_eq, frameWith_dropLast] at hbody
  rw [deframeWith_body hp hc hbody, checkTrailer_frame]

/-- Settles O31, for each lawful codec and so for the one that the parameters name. -/
theorem frameRoundTrip : Obligations.FrameRoundTrip := by
  unfold Obligations.FrameRoundTrip
  intro p hp payload
  have hcodec := codecOf_lawful hp
  exact ⟨deframeWith_frameWith hp hcodec payload, fun body => deframeWith_inserted hp hcodec,
    fun c hc => ⟨deframeWith_frameWith hp hc payload, fun body => deframeWith_inserted hp hc⟩⟩

/-! ## The two commands -/

section
variable {s t : State}

/-- FRAME ends with code 0 only by putting out the frame (R116, R182). -/
theorem execFrameWith_of_ok (h : execFrameWith c s = .next t) (hok : t.errcode = errBits .ok) :
    (frameWith c s.params (inString s)).length ≤ s.params.outCap ∧
      t = complete (putOutput s (frameWith c s.params (inString s)) (crc32 (inString s)) 0#32) .ok := by
  rcases withInput_cases h with ⟨-, rfl⟩ | ⟨-, h⟩
  · exact absurd hok (by decide : errBits .lenRange ≠ errBits .ok)
  · split at h <;> cases h
    · exact absurd hok (by decide : errBits .outOverflow ≠ errBits .ok)
    · exact ⟨by omega, rfl⟩

theorem execDeframeWith_of_ok {payload : List Byte} {cc : Word} (hl : s.inLen.toNat ≤ s.params.inCap)
    (hd : deframeWith c s.params (inString s) = .ok payload cc) (hfits : payload.length ≤ s.params.outCap) :
    execDeframeWith c s = .next (complete (putOutput s payload cc cc) .ok) := by
  rw [execDeframeWith, withInput_eq_body hl, hd]
  exact if_neg (Nat.not_lt.mpr hfits)

/-- The bytes of OUT that a command put out, found in IN, are its output again. -/
theorem inString_eq_of_output {w : List Byte} (hout : OutputIs w s) (hlen : t.inLen = s.outLen)
    (hbytes : ∀ k, k < s.outLen.toNat → inByte t k = outByte s k) : inString t = w := by
  refine List.ext_getElem (by rw [inString_length, hlen, hout.outLen]) fun k h1 h2 => ?_
  rw [← hout.bytes k h2, ← hbytes k (by rwa [hout.outLen])]
  simp [inString, inBytes]

/-- O35 for one lawful codec. -/
theorem frameWith_then_deframeWith {s' : State} (hp : s.params.wf = true) (hc : c.Lawful (reducedBase s.params))
    (hcap : s.inLen.toNat ≤ s.params.outCap) (h : execFrameWith c s = .next t) (hok : t.errcode = errBits .ok)
    (hparams : s'.params = s.params) (hlen : s'.inLen = t.outLen) (hl : s'.inLen.toNat ≤ s.params.inCap)
    (hbytes : ∀ k, k < t.outLen.toNat → inByte s' k = outByte t k) :
    ∃ u, execDeframeWith c s' = .next u ∧ CompletedWith .ok u ∧ u.outLen = s.inLen ∧
      (∀ k, k < s.inLen.toNat → outByte u k = inByte s k) ∧ u.result = t.result ∧ u.result1 = t.result := by
  obtain ⟨hfits, rfl⟩ := execFrameWith_of_ok h hok
  have hwire : inString s' = frameWith c s.params (inString s) :=
    inString_eq_of_output (putOutput_outputIs s _ _ _ _ (length_lt_of_le_outCap hp hfits)) hlen hbytes
  have hback : deframeWith c s'.params (inString s') = .ok (inString s) (crc32 (inString s)) := by
    rw [hwire, hparams, deframeWith_frameWith hp hc]
  have hpayload : (inString s).length ≤ s'.params.outCap := by rwa [inString_length, hparams]
  have hout : OutputIs (inString s)
      (complete (putOutput s' (inString s) (crc32 (inString s)) (crc32 (inString s))) .ok) :=
    putOutput_outputIs _ _ _ _ _ (by rw [inString_length]; exact s.inLen.isLt)
  refine ⟨_, execDeframeWith_of_ok (hparams ▸ hl) hback hpayload, complete_completedWith _ _, ?_, fun k hk => ?_, rfl,
    rfl⟩
  · exact BitVec.eq_of_toNat_eq (hout.outLen.trans (inString_length s))
  · rw [hout.bytes k (by rwa [inString_length])]
    simp [inString, inBytes]

end

/-- Settles O35: the machine that takes its codec from the parameters is the one given that codec, which is lawful. -/
theorem frameThenDeframeCommands : Obligations.FrameThenDeframeCommands := by
  unfold Obligations.FrameThenDeframeCommands
  intro ex s t s' hp hex hcap h hok hparams hlen hl hbytes
  rcases hex with rfl | ⟨c, hc, rfl⟩
  · change ∃ u, execDeframeWith (codecOf s'.params) s' = .next u ∧ _
    rw [hparams]
    exact frameWith_then_deframeWith hp (codecOf_lawful hp) hcap h hok hparams hlen hl hbytes
  · exact frameWith_then_deframeWith hp hc hcap h hok hparams hlen hl hbytes

end Sys2Proof.Machine
end

section
/-! A frame of the default codec with one byte of its body changed (spec/40_framing.md R114): the number that the body
writes is another one, and no other number of the same string of bytes is one digit away. -/

namespace Sys2Proof.Machine

variable {b : Nat} {p : Params} {t : List Byte} {ds : List Nat}

/-! ## The number that digits write -/

theorem ofBase_append (b : Nat) (xs ys : List Nat) :
    ofBase b (xs ++ ys) = ofBase b xs * b ^ ys.length + ofBase b ys := by
  rw [ofBase_eq_ofDigits, List.reverse_append, Nat.ofDigits_append, List.length_reverse, ← ofBase_eq_ofDigits,
    ← ofBase_eq_ofDigits]
  ring

theorem ofBase_cons (b x : Nat) (xs : List Nat) : ofBase b (x :: xs) = x * b ^ xs.length + ofBase b xs := by
  rw [ofBase_eq_radixValue, radixValue, ofBase_eq_radixValue]

theorem ofBase_lt (hb : 1 < b) (h : ∀ x ∈ ds, x < b) : ofBase b ds < b ^ ds.length := by
  rw [ofBase_eq_ofDigits, ← List.length_reverse]
  exact Nat.ofDigits_lt_base_pow_length hb fun x hx => h x (List.mem_reverse.mp hx)

theorem toBase_length_le_iff (hb : 1 < b) {k v : Nat} : (toBase b v).length ≤ k ↔ v < b ^ k := by
  rw [toBase_eq_digits hb, List.length_reverse, Nat.digits_length_le_iff hb]

theorem toRadix_lt (hp : p.wf = true) (t : List Byte) : ∀ x ∈ toRadix p t, x < reducedBase p :=
  (codecOf_lawful hp).digits_lt t

/-- A number that FromRadix reads as the string `t`: a first byte that is not 0, and the bytes of `t` (R105). -/
theorem ofBase_of_fromRadix (hs : p.codec = .sentinel) (ht : t ≠ []) (h : fromRadix p ds = t) :
    ∃ c, 0 < c ∧ c < 256 ∧ ofBase (reducedBase p) ds = c * 256 ^ t.length + beNat t := by
  rw [fromRadix_sentinel hs] at h
  have hv : ofBase (reducedBase p) ds ≠ 0 := by
    intro h0
    rw [h0, toBase_zero (by decide)] at h
    exact ht h.symm
  obtain ⟨c, cs, hc, hc0⟩ := toBase_of_ne_zero (b := 256) (by decide) hv
  have hlt : ∀ x ∈ c :: cs, x < 256 := fun x hx => toBase_lt (by decide) (hc ▸ hx)
  rw [hc, List.map_cons, List.tail_cons] at h
  have hcs : cs = t.map BitVec.toNat := by
    rw [← h, map_toNat_map_ofNat fun x hx => hlt x (List.mem_cons_of_mem c hx)]
  refine ⟨c, Nat.pos_of_ne_zero hc0, hlt c List.mem_cons_self, ?_⟩
  rw [← ofBase_cons_bytes, ← hcs, ← hc, ofBase_toBase (by decide)]

/-! ## Numbers one digit apart -/

/-- The odd part of a reduced base. -/
theorem base_odd_part (h1 : 252 ≤ b) (h2 : b ≤ 255) : ∃ q, q ∣ b ∧ 63 ≤ q ∧ Nat.Coprime q 256 := by
  interval_cases b
  · exact ⟨63, by decide, by decide, by decide⟩
  · exact ⟨253, by decide, by decide, by decide⟩
  · exact ⟨127, by decide, by decide, by decide⟩
  · exact ⟨255, by decide, by decide, by decide⟩

/-- A digit at one place is no byte before four bytes or more: a power of the base's odd part would divide the byte, so
the place is one of the last two, and the number too small. -/
theorem digit_ne_top_byte (h1 : 252 ≤ b) (h2 : b ≤ 255) {d e j n : Nat} (hd : d < b) (he0 : 0 < e) (he : e < 256)
    (hn : 4 ≤ n) : d * b ^ j ≠ e * 256 ^ n := by
  intro heq
  obtain ⟨q, hqb, hq, hcop⟩ := base_odd_part h1 h2
  have hdvd : q ^ j ∣ e * 256 ^ n := heq ▸ (pow_dvd_pow_of_dvd hqb j).mul_left d
  have hqe : q ^ j ≤ e := Nat.le_of_dvd he0 ((hcop.pow j n).dvd_of_dvd_mul_right hdvd)
  have hj : j ≤ 1 := by
    by_contra hj
    have : 63 ^ 2 ≤ q ^ j := (Nat.pow_le_pow_left hq 2).trans (Nat.pow_le_pow_right (by omega) (by omega))
    omega
  have hsmall : d * b ^ j ≤ 255 * 255 :=
    Nat.mul_le_mul (by omega) ((Nat.pow_le_pow_right (by omega) hj).trans (by rw [pow_one]; omega))
  have hbig : 256 ^ 4 ≤ e * 256 ^ n :=
    (Nat.pow_le_pow_right (by decide) hn).trans (Nat.le_mul_of_pos_left _ he0)
  omega

/-! ## One byte of the body changed -/

variable {u v : List Nat} {a a' : Nat}

/-- A list of digits with one digit removed is read as another string: it is shorter than the digits of the string's
number, and no smaller number is read as that string. -/
theorem fromRadix_removed_ne (hp : p.wf = true) (hs : p.codec = .sentinel) (ht : t ≠ [])
    (hd : toRadix p t = u ++ a :: v) : fromRadix p (u ++ v) ≠ t := by
  intro h
  have hB := one_lt_reducedBase hp
  have hlt : ∀ x ∈ u ++ a :: v, x < reducedBase p := fun x hx => toRadix_lt hp t x (hd ▸ hx)
  obtain ⟨c, hc, -, hval⟩ := ofBase_of_fromRadix hs ht h
  have hsmall : ofBase (reducedBase p) (u ++ v) < reducedBase p ^ (u ++ v).length := by
    refine ofBase_lt hB fun x hx => hlt x ?_
    simp only [List.mem_append, List.mem_cons] at hx ⊢
    tauto
  have hlarge : reducedBase p ^ (u ++ v).length ≤ 256 ^ t.length + beNat t := by
    rw [← Nat.not_lt, ← toBase_length_le_iff hB, ← toRadix_sentinel hs, hd]
    simp
  have : 256 ^ t.length ≤ c * 256 ^ t.length := Nat.le_mul_of_pos_left _ hc
  omega

/-- A list of digits with one digit changed is read as another string: the numbers would differ by a multiple of a power
of 256, and by less than B times a power of B. -/
theorem fromRadix_changed_ne (hp : p.wf = true) (hs : p.codec = .sentinel) (ht : 4 ≤ t.length)
    (hd : toRadix p t = u ++ a :: v) (ha' : a' < reducedBase p) (hne : a' ≠ a) : fromRadix p (u ++ a' :: v) ≠ t := by
  intro h
  obtain ⟨-, -, -, h252, h255⟩ := wf_base hp
  obtain ⟨c, hc, hc256, hval'⟩ := ofBase_of_fromRadix hs (List.ne_nil_of_length_pos (by omega)) h
  have hval : ofBase (reducedBase p) (u ++ a :: v) = 256 ^ t.length + beNat t := by
    rw [← hd, toRadix_sentinel hs, ofBase_toBase (one_lt_reducedBase hp)]
  rw [ofBase_append, ofBase_cons, List.length_cons] at hval hval'
  have hpos : 0 < reducedBase p ^ v.length := Nat.pow_pos (by omega)
  obtain ⟨e, rfl⟩ : ∃ e, c = e + 1 := ⟨c - 1, by omega⟩
  have hdiff : a' * reducedBase p ^ v.length = e * 256 ^ t.length + a * reducedBase p ^ v.length := by
    rw [Nat.succ_mul] at hval'
    omega
  have hle : a ≤ a' := Nat.le_of_mul_le_mul_right (by omega) hpos
  have heq : (a' - a) * reducedBase p ^ v.length = e * 256 ^ t.length := by
    rw [Nat.sub_mul]
    omega
  have he : 0 < e := by
    refine Nat.pos_of_ne_zero fun he => ?_
    rw [he, Nat.zero_mul, Nat.mul_eq_zero] at heq
    omega
  exact digit_ne_top_byte h252 h255 (by omega) he (by omega) ht heq

@[simp] theorem clean_append (p : Params) (xs ys : List Byte) : clean p (xs ++ ys) = clean p xs ++ clean p ys := by
  simp [clean, stripReserved]

theorem clean_cons_of_mem {y : Byte} (hy : y ∈ p.reserved) (ys : List Byte) : clean p (y :: ys) = clean p ys := by
  simp [clean, stripReserved, hy]

theorem clean_cons_of_not_mem {y : Byte} (hy : y ∉ p.reserved) (ys : List Byte) :
    clean p (y :: ys) = unsubByte p y :: clean p ys := by
  simp [clean, stripReserved, hy]

/-- A body with one byte changed is read as another string: a reserved byte is stripped, so that a digit is missing; any
other byte stands for another digit. -/
theorem fromRadix_tampered_ne (hp : p.wf = true) (hs : p.codec = .sentinel) (ht : 4 ≤ t.length) {us vs : List Byte}
    {x y : Byte} (h : subst p (toRadix p t) = us ++ x :: vs) (hne : y ≠ x) :
    fromRadix p (clean p (us ++ y :: vs)) ≠ t := by
  have hx : x ∉ p.reserved := by
    have hmem : x ∈ subst p (toRadix p t) := by simp [h]
    obtain ⟨d, hd, rfl⟩ := List.mem_map.mp hmem
    exact subDigit_not_mem hp (toRadix_lt hp t d hd)
  have hd : toRadix p t = clean p us ++ unsubByte p x :: clean p vs := by
    rw [← clean_subst hp (toRadix_lt hp t), h, clean_append, clean_cons_of_not_mem hx]
  rw [clean_append]
  by_cases hy : y ∈ p.reserved
  · rw [clean_cons_of_mem hy]
    exact fromRadix_removed_ne hp hs (List.ne_nil_of_length_pos (by omega)) hd
  · rw [clean_cons_of_not_mem hy]
    refine fromRadix_changed_ne hp hs ht hd (unsubByte_lt hp hy) fun heq => hne ?_
    rw [← subDigit_unsubByte hp hy, heq, subDigit_unsubByte hp hx]

/-- All that the check of the trailer can answer: an Ok payload is the string before its own CRC (R111). -/
theorem checkTrailer_cases (t : List Byte) :
    checkTrailer t = .tooShort ∨ (∃ cc rc, cc ≠ rc ∧ checkTrailer t = .badChecksum cc rc) ∨
      ∃ q, t = q ++ be32 (crc32 q) ∧ checkTrailer t = .ok q (crc32 q) := by
  by_cases hlen : t.length < 4
  · exact .inl (checkTrailer_of_short hlen)
  obtain ⟨q, b0, b1, b2, b3, rfl⟩ : ∃ q b0 b1 b2 b3, t = q ++ [b0, b1, b2, b3] := by
    have hdrop : (t.drop (t.length - 4)).length = 4 := by rw [List.length_drop]; omega
    obtain ⟨b0, b1, b2, b3, h⟩ := List.length_eq_four.mp hdrop
    exact ⟨t.take (t.length - 4), b0, b1, b2, b3, by rw [← h, List.take_append_drop]⟩
  rw [checkTrailer_append]
  split
  · rename_i hcrc
    exact .inr (.inr ⟨q, by rw [hcrc, be32_append4], rfl⟩)
  · rename_i hcrc
    exact .inr (.inl ⟨_, _, hcrc, rfl⟩)

/-- Settles O32: the changed body is read as another string, so it is no payload with its CRC that is Ok. -/
theorem tamperedFrameNeverYieldsThePayload : Obligations.TamperedFrameNeverYieldsThePayload := by
  unfold Obligations.TamperedFrameNeverYieldsThePayload
  intro p hp hs payload u v x y hbody hne
  have hread : fromRadix p (clean p (u ++ y :: v)) ≠ payload ++ be32 (crc32 payload) :=
    fromRadix_tampered_ne hp hs (by simp [be32]) (frameWith_dropLast _ p payload ▸ hbody) hne
  change deframe p (u ++ y :: v ++ [delimiter]) = _ ∨ (∃ cc rc, cc ≠ rc ∧ deframe p (u ++ y :: v ++ [delimiter]) = _) ∨
    ∃ q, q ≠ payload ∧ deframe p (u ++ y :: v ++ [delimiter]) = _
  rw [deframe_append_delimiter]
  refine (checkTrailer_cases _).imp_right (Or.imp_right ?_)
  rintro ⟨q, hq, hok⟩
  exact ⟨q, fun heq => hread (by rw [hq, heq]), hok⟩

end Sys2Proof.Machine
end

section
/-! The length of a frame under the default codec and reserved set (spec/40_framing.md R110), and that FRAME of a unit
with the default capacities never overflows (R116). -/

namespace Sys2Proof.Machine

variable {p : Params} {payload : List Byte} {k n : Nat}

/-! ## The number whose digits a frame carries -/

/-- The number with the sentinel of the payload and its trailer (R104, R109). -/
def frameNumber (payload : List Byte) : Nat :=
  256 ^ (payload.length + 4) + beNat (payload ++ be32 (crc32 payload))

theorem be32_length (v : Word) : (be32 v).length = 4 := rfl

theorem frame_length (p : Params) (payload : List Byte) :
    (frame p payload).length = (toRadix p (payload ++ be32 (crc32 payload))).length + 1 := by
  rw [frame, frameWith, List.length_append, subst, List.length_map, toRadix, List.length_singleton]

/-- The sentinel makes the number at least 256^(n+4) and less than twice that. -/
theorem frameNumber_bounds (payload : List Byte) :
    256 ^ (payload.length + 4) ≤ frameNumber payload ∧ frameNumber payload < 2 * 256 ^ (payload.length + 4) := by
  have hlt := beNat_lt (payload ++ be32 (crc32 payload))
  rw [List.length_append, be32_length] at hlt
  unfold frameNumber
  omega

section
variable (hr : p.reserved = Params.default.reserved) (hs : p.codec = .sentinel)
include hr hs

/-- A frame is short when its number is small: B is 252 (R5). -/
theorem frame_length_le_iff : (frame p payload).length ≤ k + 1 ↔ frameNumber payload < 252 ^ k := by
  have hB : reducedBase p = 252 := by rw [reducedBase, reservedCount, hr]; rfl
  rw [frame_length, Nat.add_le_add_iff_right, toRadix_sentinel hs, hB, toBase_length_le_iff (by decide),
    List.length_append, be32_length, frameNumber]

theorem frame_length_le (h : 2 * 256 ^ (payload.length + 4) ≤ 252 ^ k) : (frame p payload).length ≤ k + 1 :=
  (frame_length_le_iff hr hs).mpr ((frameNumber_bounds payload).2.trans_le h)

/-- No shorter payload has a longer frame than the greatest number of `n` bytes allows. -/
theorem frame_length_le_of_le (hn : payload.length ≤ n) (h : 2 * 256 ^ (n + 4) ≤ 252 ^ k) :
    (frame p payload).length ≤ k + 1 :=
  frame_length_le hr hs ((Nat.mul_le_mul_left 2 (Nat.pow_le_pow_right (by decide) (Nat.add_le_add_right hn 4))).trans h)

theorem lt_frame_length (h : 252 ^ k ≤ 256 ^ (payload.length + 4)) : k + 1 < (frame p payload).length := by
  rw [← Nat.not_le, frame_length_le_iff hr hs, Nat.not_lt]
  exact h.trans (frameNumber_bounds payload).1

/-- A frame is at least six bytes longer than its payload. -/
theorem payload_length_add_le_frame_length (payload : List Byte) : payload.length + 6 ≤ (frame p payload).length :=
  lt_frame_length hr hs (Nat.pow_le_pow_left (by decide) _)

/-- The frames of payloads of equal length differ by at most one byte: their numbers differ by less than a factor 2. -/
theorem frame_length_adjacent {payload' : List Byte} (hlen : payload'.length = payload.length) :
    (frame p payload).length ≤ (frame p payload').length + 1 := by
  have hpos := payload_length_add_le_frame_length hr hs payload'
  obtain ⟨k, hk⟩ : ∃ k, (frame p payload').length = k + 1 := ⟨(frame p payload').length - 1, by omega⟩
  have hsmall : frameNumber payload' < 252 ^ k := (frame_length_le_iff hr hs).mp hk.le
  rw [hk]
  refine (frame_length_le_iff hr hs).mpr ?_
  calc frameNumber payload < 2 * 256 ^ (payload.length + 4) := (frameNumber_bounds payload).2
    _ ≤ 2 * 252 ^ k := Nat.mul_le_mul_left 2 (hlen ▸ (frameNumber_bounds payload').1.trans hsmall.le)
    _ ≤ 252 ^ (k + 1) := by rw [pow_succ, Nat.mul_comm]; exact Nat.mul_le_mul_left _ (by decide)

end

/-! ## Lengths by the number of payload bytes -/

/-- Up to 307 bytes with the trailer, one digit more than bytes is enough: the slack 252 outweighs the growth of
2 · (256/252)^n. -/
theorem two_mul_pow_le (hn : n ≤ 307) : 2 * 256 ^ n ≤ 252 ^ (n + 1) := by
  obtain ⟨m, hm⟩ := Nat.exists_eq_add_of_le hn
  have hend : 2 * 256 ^ 307 ≤ 252 ^ (307 + 1) := by decide +kernel
  refine Nat.le_of_mul_le_mul_right (c := 256 ^ m) ?_ (Nat.pow_pos (by decide))
  calc 2 * 256 ^ n * 256 ^ m = 2 * 256 ^ 307 := by rw [Nat.mul_assoc, ← pow_add, hm]
    _ ≤ 252 ^ (n + 1) * 252 ^ m := by rw [← pow_add, Nat.add_right_comm, ← hm]; exact hend
    _ ≤ 252 ^ (n + 1) * 256 ^ m := Nat.mul_le_mul_left _ (Nat.pow_le_pow_left (by decide) m)

/-- The lengths at the selected maxima: the number stays below one power of B and above the power before. -/
theorem selected_maxima {m : Nat} (h : (n, m) ∈ [(1000, 1008), (4092, 4109), (4096, 4113), (16384, 16436)]) :
    ∃ k, m = k + 2 ∧ 252 ^ k ≤ 256 ^ (n + 4) ∧ 2 * 256 ^ (n + 4) ≤ 252 ^ (k + 1) := by
  simp only [List.mem_cons, Prod.mk.injEq, List.not_mem_nil, or_false] at h
  rcases h with ⟨rfl, rfl⟩ | ⟨rfl, rfl⟩ | ⟨rfl, rfl⟩ | ⟨rfl, rfl⟩
  · exact ⟨1006, rfl, by decide +kernel, by decide +kernel⟩
  · exact ⟨4107, rfl, by decide +kernel, by decide +kernel⟩
  · exact ⟨4111, rfl, by decide +kernel, by decide +kernel⟩
  · exact ⟨16434, rfl, by decide +kernel, by decide +kernel⟩

section
variable (hr : p.reserved = Params.default.reserved) (hs : p.codec = .sentinel)
include hr hs

theorem frame_length_of_short (h : payload.length ≤ 303) : (frame p payload).length = payload.length + 6 :=
  Nat.le_antisymm (frame_length_le hr hs (two_mul_pow_le (by omega))) (payload_length_add_le_frame_length hr hs payload)

theorem frame_length_of_selected {m : Nat}
    (h : (payload.length, m) ∈ [(1000, 1008), (4092, 4109), (4096, 4113), (16384, 16436)]) :
    (frame p payload).length = m := by
  obtain ⟨k, rfl, hlow, hhigh⟩ := selected_maxima h
  exact Nat.le_antisymm (frame_length_le hr hs hhigh) (lt_frame_length hr hs hlow)

end

/-! ## Both lengths at n = 304 -/

theorem beNat_append (xs ys : List Byte) : beNat (xs ++ ys) = beNat xs * 256 ^ ys.length + beNat ys := by
  rw [beNat_eq_radixValue, List.map_append, ← ofBase_eq_radixValue, ofBase_append, List.length_map,
    ofBase_eq_radixValue, ofBase_eq_radixValue, ← beNat_eq_radixValue, ← beNat_eq_radixValue]

theorem beNat_replicate_zero (n : Nat) : beNat (List.replicate n 0x00#8) = 0 := by
  induction n with
  | zero => rfl
  | succ n ih => rw [List.replicate_succ', beNat_append, ih]; rfl

theorem beNat_replicate_ones (n : Nat) : beNat (List.replicate n 0xFF#8) + 1 = 256 ^ n := by
  induction n with
  | zero => rfl
  | succ n ih =>
    have hlast : beNat [0xFF#8] = 255 := rfl
    rw [List.replicate_succ', beNat_append, hlast, pow_succ, ← ih, List.length_singleton, pow_one]
    ring

/-- Zeros carry the least number of their length, up to the trailer. -/
theorem frameNumber_zeros_lt (h : 256 ^ (n + 4) + 256 ^ 4 ≤ 252 ^ k) :
    frameNumber (List.replicate n 0x00#8) < 252 ^ k := by
  have htrailer := beNat_lt (be32 (crc32 (List.replicate n 0x00#8)))
  rw [frameNumber, beNat_append, beNat_replicate_zero, List.length_replicate, Nat.zero_mul, Nat.zero_add]
  exact (Nat.add_lt_add_left htrailer _).trans_le h

/-- Ones carry the greatest number of their length, up to the trailer. -/
theorem le_frameNumber_ones (h : 252 ^ k ≤ 256 ^ (n + 4) + (256 ^ n - 1) * 256 ^ 4) :
    252 ^ k ≤ frameNumber (List.replicate n 0xFF#8) := by
  rw [frameNumber, beNat_append, List.length_replicate, be32_length, Nat.eq_sub_of_add_eq (beNat_replicate_ones n)]
  exact h.trans (Nat.add_le_add_left (Nat.le_add_right _ _) _)

/-- Settles O33, by where the number of the payload and its trailer stands between the powers of 252. -/
theorem frameLength : Obligations.FrameLength := by
  unfold Obligations.FrameLength
  intro p hr hs
  refine ⟨fun payload => ⟨frame_length p payload, frame_length_of_short hr hs, fun m => frame_length_of_selected hr hs,
    fun payload' => frame_length_adjacent hr hs⟩, List.replicate 304 0x00#8, List.replicate 304 0xFF#8,
    List.length_replicate, List.length_replicate, ?_, ?_⟩
  · have hlow := payload_length_add_le_frame_length hr hs (List.replicate 304 0x00#8)
    rw [List.length_replicate] at hlow
    refine Nat.le_antisymm ((frame_length_le_iff hr hs).mpr (frameNumber_zeros_lt ?_)) hlow
    decide +kernel
  · refine Nat.le_antisymm (frame_length_le hr hs ?_) (Nat.lt_of_not_le (mt (frame_length_le_iff hr hs).mp ?_))
    · rw [List.length_replicate]
      decide +kernel
    · exact Nat.not_lt.mpr (le_frameNumber_ones (by decide +kernel))

/-! ## FRAME with the default capacities -/

/-- Settles O34: 4113 bytes fit the default OUT_CAP. -/
theorem defaultFrameNeverOverflows : Obligations.DefaultFrameNeverOverflows := by
  unfold Obligations.DefaultFrameNeverOverflows
  intro s hr hs hin hout hlen
  have hlow := payload_length_add_le_frame_length hr hs (inString s)
  have hhigh : (frame s.params (inString s)).length ≤ 4112 + 1 :=
    frame_length_le_of_le (n := 4096) hr hs (by rwa [inString_length]) (by decide +kernel)
  rw [inString_length] at hlow
  refine ⟨_, exec_frame_of_fits (by omega) (by omega), complete_completedWith _ _, ?_⟩
  rw [(putOutput_outputIs s _ _ _ _ (by omega)).outLen]
  exact ⟨hlow, hhigh⟩

end Sys2Proof.Machine
end

section
/-! The Internet checksum (spec/41_checksum.md R141, R142): the folded sum is the residue of the sum of the words modulo
65535, with 65535 in place of 0 for every sum but 0 itself; so is the sum with an end-around carry after every word. -/

namespace Sys2Proof.Machine

variable {a b m n : Nat} {bs : List Byte}

/-! ## One's-complement residues -/

/-- The one's-complement value of a sum: 0 for 0, else its residue modulo 65535 among 1 to 65535. -/
def onesResidue (n : Nat) : Nat := if n = 0 then 0 else (n - 1) % 65535 + 1

theorem onesResidue_of_le (h : n ≤ 65535) : onesResidue n = n := by
  unfold onesResidue
  split <;> omega

theorem onesResidue_le (n : Nat) : onesResidue n ≤ 65535 := by
  unfold onesResidue
  split <;> omega

/-- Two sums have the same value when they agree modulo 65535 and are both 0 or both not. -/
theorem onesResidue_congr (hmod : m % 65535 = n % 65535) (hzero : m = 0 ↔ n = 0) : onesResidue m = onesResidue n := by
  unfold onesResidue
  split <;> split <;> omega

theorem onesResidue_mod (n : Nat) : onesResidue n % 65535 = n % 65535 := by
  unfold onesResidue
  split <;> omega

theorem onesResidue_eq_zero_iff : onesResidue n = 0 ↔ n = 0 := by
  unfold onesResidue
  split <;> omega

theorem onesResidue_add (m n : Nat) : onesResidue (onesResidue m + onesResidue n) = onesResidue (m + n) := by
  have hm := onesResidue_mod m
  have hn := onesResidue_mod n
  have hm0 := onesResidue_eq_zero_iff (n := m)
  have hn0 := onesResidue_eq_zero_iff (n := n)
  exact onesResidue_congr (by omega) (by omega)

/-- The complement of a value fills its sum up to 65535, which stands for 0. -/
theorem onesResidue_add_complement (n : Nat) : onesResidue (n + (65535 - onesResidue n)) = 65535 := by
  have hle := onesResidue_le n
  have hmod := onesResidue_mod n
  have hzero := onesResidue_eq_zero_iff (n := n)
  have hones : onesResidue 65535 = 65535 := onesResidue_of_le (Nat.le_refl _)
  exact (onesResidue_congr (by omega) (by omega)).trans hones

/-! ## The two ways of adding up the words -/

/-- One round of the fold keeps the value, and it ends below 65536 (R141). -/
theorem foldCarries_eq {fuel sum : Nat} (h : sum ≤ fuel) : foldCarries fuel sum = onesResidue sum := by
  induction fuel generalizing sum with
  | zero =>
    obtain rfl : sum = 0 := Nat.le_zero.mp h
    rfl
  | succ fuel ih =>
    have hlow : sum &&& 0xFFFF = sum % 65536 := Nat.and_two_pow_sub_one_eq_mod sum 16
    rw [foldCarries, hlow, Nat.shiftRight_eq_div_pow]
    split
    · exact (onesResidue_of_le (by omega)).symm
    · rw [ih (by omega)]
      exact onesResidue_congr (by omega) (by omega)

theorem foldedSum_eq (bs : List Byte) : foldedSum bs = onesResidue (wordSum bs) := foldCarries_eq (Nat.le_refl _)

theorem netChecksum_eq (bs : List Byte) : netChecksum bs = ~~~ BitVec.ofNat 16 (onesResidue (wordSum bs)) := by
  rw [netChecksum, foldedSum_eq]

theorem endAroundAdd_eq (ha : a ≤ 65535) (hb : b ≤ 65535) : endAroundAdd a b = onesResidue (a + b) := by
  unfold endAroundAdd onesResidue
  split <;> split <;> omega

/-- Adding with an end-around carry after every word gives the value of the sum of all of them. -/
theorem foldl_endAroundAdd (ws : List Nat) (hw : ∀ w ∈ ws, w ≤ 65535) (hn : n ≤ 65535) :
    ws.foldl endAroundAdd n = onesResidue (n + ws.sum) := by
  induction ws generalizing n with
  | nil => exact (onesResidue_of_le hn).symm
  | cons w ws ih =>
    have hw0 : w ≤ 65535 := hw w List.mem_cons_self
    rw [List.foldl_cons, ih (fun x hx => hw x (List.mem_cons_of_mem w hx))]
    · have hmod := onesResidue_mod (n + w)
      have hzero := onesResidue_eq_zero_iff (n := n + w)
      rw [endAroundAdd_eq hn hw0, List.sum_cons]
      exact onesResidue_congr (by omega) (by omega)
    · rw [endAroundAdd_eq hn hw0]
      exact onesResidue_le _

/-! ## The words of a string -/

theorem sum_wordsOf (bs : List Byte) : (wordsOf bs).sum = wordSum bs := by
  induction bs using wordsOf.induct with
  | case1 => rfl
  | case2 hi => simp [wordsOf, wordSum]
  | case3 hi lo rest ih => rw [wordsOf, List.sum_cons, ih, wordSum]

theorem wordsOf_le (bs : List Byte) : ∀ w ∈ wordsOf bs, w ≤ 65535 := by
  induction bs using wordsOf.induct with
  | case1 => simp [wordsOf]
  | case2 hi =>
    have := hi.isLt
    simp only [wordsOf, List.mem_singleton, forall_eq]
    omega
  | case3 hi lo rest ih =>
    have := hi.isLt
    have := lo.isLt
    rw [wordsOf, List.forall_mem_cons]
    exact ⟨by omega, ih⟩

/-- Words do not cross an even offset (R142 item 2). -/
theorem wordSum_append {xs : List Byte} (h : xs.length % 2 = 0) (ys : List Byte) :
    wordSum (xs ++ ys) = wordSum xs + wordSum ys := by
  induction xs using wordSum.induct with
  | case1 => rw [List.nil_append, wordSum, Nat.zero_add]
  | case2 hi => cases h
  | case3 hi lo rest ih =>
    have hrest : rest.length % 2 = 0 := by
      simp only [List.length_cons] at h
      omega
    rw [List.cons_append, List.cons_append, wordSum, ih hrest, wordSum, ← Nat.add_assoc]

theorem wordSum_of_zeros (h : ∀ b ∈ bs, b = 0#8) : wordSum bs = 0 := by
  induction bs using wordSum.induct with
  | case1 => rfl
  | case2 hi => rw [h hi (by simp)]; rfl
  | case3 hi lo rest ih =>
    rw [h hi (by simp), h lo (by simp), wordSum_zero_word]
    exact ih fun b hb => h b (by simp [hb])

/-! ## The laws -/

/-- Settles O36: both sums have the value of the sum of the words. -/
theorem checksumIsEndAroundSum : Obligations.ChecksumIsEndAroundSum := by
  unfold Obligations.ChecksumIsEndAroundSum
  intro bs
  rw [netChecksum_eq, foldl_endAroundAdd _ (wordsOf_le bs) (Nat.zero_le _), Nat.zero_add, sum_wordsOf]

theorem netChecksum_of_residue_ones (h : onesResidue (wordSum bs) = 65535) : netChecksum bs = 0#16 := by
  rw [netChecksum_eq, h]
  decide

/-- The two bytes of a checksum are the word it is. -/
theorem wordSum_checksum_bytes (c : BitVec 16) (v : List Byte) :
    wordSum ([c.extractLsb' 8 8, c.extractLsb' 0 8] ++ v) = c.toNat + wordSum v := by
  have := c.isLt
  simp only [List.cons_append, List.nil_append, wordSum, BitVec.extractLsb'_toNat, Nat.shiftRight_eq_div_pow]
  omega

theorem netChecksum_toNat (bs : List Byte) : (netChecksum bs).toNat = 65535 - onesResidue (wordSum bs) := by
  have := onesResidue_le (wordSum bs)
  rw [netChecksum_eq, BitVec.toNat_not, BitVec.toNat_ofNat]
  omega

/-- Settles O37: the checksum adds to the words of its own string their complement. -/
theorem insertedChecksumVerifies : Obligations.InsertedChecksumVerifies := by
  unfold Obligations.InsertedChecksumVerifies
  intro u v hu
  have hfield : wordSum (u ++ [0#8, 0#8] ++ v) = wordSum u + wordSum v := by
    rw [List.append_assoc, wordSum_append hu, List.cons_append, List.cons_append, wordSum_zero_word, List.nil_append]
  refine netChecksum_of_residue_ones ?_
  rw [List.append_assoc, wordSum_append hu, wordSum_checksum_bytes, netChecksum_toNat, hfield, Nat.add_left_comm,
    Nat.add_comm]
  exact onesResidue_add_complement _

theorem netChecksum_append {xs : List Byte} (h : xs.length % 2 = 0) (ys : List Byte) :
    netChecksum (xs ++ ys) = ~~~ BitVec.ofNat 16 (endAroundAdd (foldedSum xs) (foldedSum ys)) := by
  rw [netChecksum_eq, wordSum_append h, foldedSum_eq, foldedSum_eq,
    endAroundAdd_eq (onesResidue_le _) (onesResidue_le _), onesResidue_add]

/-- Settles O38, each law by the value of the sum of the words. -/
theorem checksumLaws : Obligations.ChecksumLaws := by
  unfold Obligations.ChecksumLaws
  refine ⟨fun n => ?_, fun bs h => netChecksum_of_residue_ones (foldedSum_eq bs ▸ h), by decide, fun xs ys h => ?_,
    fun xs ys h => netChecksum_append h ys⟩
  · rw [netChecksum_eq, wordSum_of_zeros fun b => List.eq_of_mem_replicate]
    decide
  · refine netChecksum_congr ?_
    rw [← sum_wordsOf, ← sum_wordsOf, h.sum_eq]

end Sys2Proof.Machine
end

section
/-! Crc32 (spec/40_framing.md R101): the reflected form is the bit-reversed form, and every step of the register is
injective, so that one changed byte changes the CRC. -/

namespace Sys2Proof.Machine

/-! ## Bit reversal -/

theorem reverse_xor {w : Nat} (x y : BitVec w) : (x ^^^ y).reverse = x.reverse ^^^ y.reverse := by
  refine BitVec.eq_of_getLsbD_eq fun i hi => ?_
  simp only [BitVec.getLsbD_xor, BitVec.getLsbD_reverse, BitVec.getMsbD_xor]

theorem reverse_shiftLeft_one (c : Word) : (c <<< 1).reverse = c.reverse >>> 1 := by
  refine BitVec.eq_of_getLsbD_eq fun i hi => ?_
  simp only [BitVec.getLsbD_ushiftRight, BitVec.getLsbD_reverse, BitVec.getMsbD_shiftLeft, Nat.add_comm]

/-- A byte at the top of the register, reversed, is the reversed byte at the bottom. -/
theorem reverse_top_byte (b : Byte) : (b.reverse ++ 0#24 : Word).reverse = b.setWidth 32 := by
  refine BitVec.eq_of_getLsbD_eq fun i hi => ?_
  rw [BitVec.getLsbD_reverse, BitVec.getMsbD_append, BitVec.getLsbD_setWidth, BitVec.getMsbD_reverse]
  by_cases h : i < 8
  · simp [h, hi]
  · simp [BitVec.getLsbD_of_ge b i (by omega)]

/-! ## The two forms of the register -/

/-- One bit: the registers shift opposite ways, and the polynomials are each other's reversal. -/
theorem crcBit_reverse (c : Word) : crcBit c.reverse = (msbCrcBit c).reverse := by
  have hbit : c.reverse.getLsbD 0 = c.getLsbD 31 := by rw [BitVec.getLsbD_reverse]; rfl
  have hpoly : (0x04C11DB7#32).reverse = 0xEDB88320#32 := by decide +kernel
  unfold crcBit msbCrcBit
  rw [hbit]
  split
  · rw [reverse_xor, reverse_shiftLeft_one, hpoly]
  · rw [reverse_shiftLeft_one]

theorem crcBits_reverse (n : Nat) (c : Word) : crcBits n c.reverse = (msbCrcBit^[n] c).reverse := by
  induction n generalizing c with
  | zero => rfl
  | succ n ih => rw [crcBits, crcBit_reverse, ih, Function.iterate_succ_apply]

theorem crcByte_reverse (c : Word) (b : Byte) :
    crcByte c.reverse b = (msbCrcBit^[8] (c ^^^ (b.reverse ++ 0#24 : Word))).reverse := by
  rw [crcByte, ← reverse_top_byte, ← reverse_xor, crcBits_reverse]

theorem foldl_crcByte_reverse (bs : List Byte) (c : Word) : bs.foldl crcByte c.reverse =
    ((bs.map BitVec.reverse).foldl (fun c b => msbCrcBit^[8] (c ^^^ (b ++ 0#24 : Word))) c).reverse := by
  induction bs generalizing c with
  | nil => rfl
  | cons b bs ih => rw [List.foldl_cons, crcByte_reverse, ih, List.map_cons, List.foldl_cons]

/-- Settles O21: the two forms hold each other's reversal after every byte, and the initial value is its own. -/
theorem crc32IsTheReflectedCrc : Obligations.Crc32IsTheReflectedCrc := by
  unfold Obligations.Crc32IsTheReflectedCrc
  refine ⟨fun bs => ?_, by decide +kernel, by decide⟩
  have hinit : (0xFFFFFFFF#32).reverse = 0xFFFFFFFF#32 := by decide +kernel
  rw [crc32, msbCrc, ← foldl_crcByte_reverse, hinit]

/-! ## Injectivity -/

/-- The top bit after a step tells the bit that was shifted out: the polynomial alone sets it. -/
theorem crcBit_getLsbD_31 (c : Word) : (crcBit c).getLsbD 31 = c.getLsbD 0 := by
  unfold crcBit
  cases h : c.getLsbD 0 <;> simp

theorem crcBit_injective : Function.Injective crcBit := by
  intro c c' h
  have h0 : c.getLsbD 0 = c'.getLsbD 0 := by rw [← crcBit_getLsbD_31, h, crcBit_getLsbD_31]
  have hshift : c >>> 1 = c' >>> 1 := by
    unfold crcBit at h
    rw [h0] at h
    split at h
    · exact (BitVec.xor_left_inj _).mp h
    · exact h
  refine BitVec.eq_of_getLsbD_eq fun i hi => ?_
  cases i with
  | zero => exact h0
  | succ i =>
    have hbit := congrArg (fun w => BitVec.getLsbD w i) hshift
    simpa only [BitVec.getLsbD_ushiftRight, Nat.add_comm] using hbit

theorem crcBits_injective (n : Nat) : Function.Injective (crcBits n) := by
  induction n with
  | zero => exact Function.injective_id
  | succ n ih => exact ih.comp crcBit_injective

theorem crcByte_left_injective (b : Byte) : Function.Injective fun c => crcByte c b := fun _ _ h =>
  (BitVec.xor_left_inj _).mp (crcBits_injective 8 h)

theorem crcByte_right_injective (c : Word) : Function.Injective (crcByte c) := by
  intro x y h
  have hword : x.setWidth 32 = y.setWidth 32 := (BitVec.xor_right_inj _).mp (crcBits_injective 8 h)
  simpa using congrArg (BitVec.setWidth 8) hword

theorem foldl_crcByte_injective (bs : List Byte) : Function.Injective fun c => bs.foldl crcByte c := by
  induction bs with
  | nil => exact Function.injective_id
  | cons b bs ih => exact ih.comp (crcByte_left_injective b)

/-- Settles O22: the register after the changed byte differs, and the bytes after it keep it so. -/
theorem crc32DetectsOneChangedByte : Obligations.Crc32DetectsOneChangedByte := by
  unfold Obligations.Crc32DetectsOneChangedByte
  intro u v x y h
  have hregister := (BitVec.xor_left_inj _).mp h
  rw [List.foldl_append, List.foldl_append, List.foldl_cons, List.foldl_cons] at hregister
  exact crcByte_right_injective _ (foldl_crcByte_injective v hregister)

end Sys2Proof.Machine
end

section
/-! What the commands read (spec/30_encoding.md R81) and the codes they end with (spec/60_exceptions.md R182). -/

namespace Sys2Proof.Machine

variable {s s' t : State} {p : Params} {i : Instr} {c : ErrCode} {w : List Byte}

/-! ## The effect of a completion step -/

/-- What a completion step does, apart from the state it does it to: STATUS alone, the results, or an output. -/
inductive Effect where
  | status (c : ErrCode)
  | results (r r1 : Word) (c : ErrCode)
  | output (w : List Byte) (r r1 : Word) (c : ErrCode)

/-- The state that an effect leaves of `s`. -/
def Effect.apply (s : State) : Effect → State
  | .status c => complete s c
  | .results r r1 c => complete (setResults s r r1) c
  | .output w r r1 c => complete (putOutput s w r r1) c

/-- The effects a command can have, by its row: one that writes the results leaves STATUS alone changed only with
LEN_RANGE, and one that writes OUT does so with every other code (R30, R81, R100). -/
def Effect.ofRow (i : Instr) : Effect → Prop
  | .status c => readsIn i = true ∨ i = .u32pack → c = .lenRange
  | .results _ _ _ => writesOut i = false
  | .output _ _ _ _ => True

/-- Two states agree on the parameters and on the operands that the row of a command names (R67, R81). -/
structure SameReads (i : Instr) (s s' : State) : Prop where
  params : s.params = s'.params
  input : readsIn i = true → s.inLen = s'.inLen ∧ ∀ k, k < operandBytes i s → inByte s k = inByte s' k
  pack : i = .u32pack → s.arg0 = s'.arg0
  pseudo : i = .netsumPh → s.arg0 = s'.arg0 ∧ s.arg1 = s'.arg1 ∧ s.arg2 = s'.arg2

theorem exec_of_lenRange (hr : readsIn i = true) (hl : s.params.inCap < s.inLen.toNat) :
    exec i s = .next (complete s .lenRange) := by
  cases i with
  | nop | u32pack | reserved => cases hr
  | crc32 | frame | deframe | u32unpack | netsum | netsumPh => exact withInput_eq_lenRange hl

/-- Where the length check fails in one of two agreeing states, the command has the same effect in both. -/
theorem SameReads.lenRange (h : SameReads i s s') (hr : readsIn i = true) (hl : s.params.inCap < s.inLen.toNat) :
    exec i s' = .next (Effect.apply s' (.status .lenRange)) :=
  exec_of_lenRange hr (h.params ▸ (h.input hr).1 ▸ hl)

theorem SameReads.inLen_le (h : SameReads i s s') (hr : readsIn i = true) (hl : s.inLen.toNat ≤ s.params.inCap) :
    s'.inLen.toNat ≤ s'.params.inCap := h.params ▸ (h.input hr).1 ▸ hl

theorem SameReads.inString (h : SameReads i s s') (hr : readsIn i = true) (hall : operandBytes i s = s.inLen.toNat) :
    inString s' = inString s := by
  obtain ⟨hlen, hbytes⟩ := h.input hr
  exact (inString_congr hlen (hall ▸ hbytes)).symm

/-- A command has one effect in two states that agree on what its row names: it takes the same branch in both. -/
theorem exec_effect (ha : SameReads i s s') (h : exec i s = .next t) :
    ∃ e : Effect, e.ofRow i ∧ t = e.apply s ∧ exec i s' = .next (e.apply s') := by
  cases i with
  | nop => cases h; exact ⟨.status .ok, by simp [Effect.ofRow, readsIn], rfl, rfl⟩
  | reserved op => cases h; exact ⟨.status .badOp, by simp [Effect.ofRow, readsIn], rfl, rfl⟩
  | u32pack =>
    cases h
    refine ⟨.output (be32 s.arg0) s.arg0 0#32 .ok, trivial, rfl, ?_⟩
    rw [ha.pack rfl]
    rfl
  | crc32 =>
    rcases execCrc32_cases h with ⟨hl, rfl⟩ | ⟨hl, rfl⟩
    · exact ⟨.status .lenRange, fun _ => rfl, rfl, ha.lenRange rfl hl⟩
    · refine ⟨.results _ _ .ok, rfl, rfl, ?_⟩
      rw [← ha.inString rfl rfl]
      exact withInput_eq_body (ha.inLen_le rfl hl)
  | netsum =>
    rcases execNetsum_cases h with ⟨hl, rfl⟩ | ⟨hl, rfl⟩
    · exact ⟨.status .lenRange, fun _ => rfl, rfl, ha.lenRange rfl hl⟩
    · refine ⟨.results _ _ .ok, rfl, rfl, ?_⟩
      rw [← ha.inString rfl rfl]
      exact withInput_eq_body (ha.inLen_le rfl hl)
  | netsumPh =>
    rcases execNetsumPh_cases h with ⟨hl, rfl⟩ | ⟨hl, rfl⟩
    · exact ⟨.status .lenRange, fun _ => rfl, rfl, ha.lenRange rfl hl⟩
    · obtain ⟨h0, h1, h2⟩ := ha.pseudo rfl
      refine ⟨.results _ _ .ok, rfl, rfl, ?_⟩
      rw [← ha.inString rfl rfl, pseudoHeader, h0, h1, h2]
      exact withInput_eq_body (ha.inLen_le rfl hl)
  | u32unpack =>
    obtain ⟨hlen, hbytes⟩ := ha.input rfl
    rcases execU32unpack_cases h with ⟨hl, rfl⟩ | ⟨hl, h4, rfl⟩ | ⟨hl, h4, rfl⟩
    · exact ⟨.status .lenRange, fun _ => rfl, rfl, ha.lenRange rfl hl⟩
    · exact ⟨.results _ _ .tooShort, rfl, rfl, exec_u32unpack_of_short (ha.inLen_le rfl hl) (hlen ▸ h4)⟩
    · refine ⟨.results _ _ .ok, rfl, rfl, ?_⟩
      have hword : u32be (inBytes s 4) = u32be (inBytes s' 4) :=
        congrArg u32be (List.map_congr_left fun k hk => hbytes k (by
          rw [List.mem_range] at hk
          rw [operandBytes]
          omega))
      rw [hword, u32be_inBytes_four]
      exact exec_u32unpack_of_four_le (ha.inLen_le rfl hl) (hlen ▸ h4)
  | frame =>
    have hwire : frame s'.params (inString s') = frame s.params (inString s) := by
      rw [ha.inString rfl rfl, ha.params]
    rcases execFrame_cases h with ⟨hl, rfl⟩ | ⟨hl, hw, rfl⟩ | ⟨hl, hw, rfl⟩
    · exact ⟨.status .lenRange, fun _ => rfl, rfl, ha.lenRange rfl hl⟩
    · rw [← hwire, ha.params] at hw
      exact ⟨.output [] _ _ .outOverflow, trivial, rfl, exec_frame_of_overflow (ha.inLen_le rfl hl) hw⟩
    · rw [← hwire, ha.params] at hw
      refine ⟨.output _ _ _ .ok, trivial, rfl, ?_⟩
      rw [← hwire, ← ha.inString rfl rfl]
      exact exec_frame_of_fits (ha.inLen_le rfl hl) hw
  | deframe =>
    have hread : deframe s'.params (inString s') = deframe s.params (inString s) := by
      rw [ha.inString rfl rfl, ha.params]
    rcases execDeframe_cases h with ⟨hl, rfl⟩ | ⟨hl, hd, rfl⟩ | ⟨cc, rc, hl, hd, rfl⟩ | ⟨q, cc, hl, hd, hq, rfl⟩ |
      ⟨q, cc, hl, hd, hq, rfl⟩
    · exact ⟨.status .lenRange, fun _ => rfl, rfl, ha.lenRange rfl hl⟩
    · exact ⟨.output [] _ _ .tooShort, trivial, rfl, exec_deframe_of_tooShort (ha.inLen_le rfl hl) (hread.trans hd)⟩
    · exact ⟨.output [] _ _ .badChecksum, trivial, rfl,
        exec_deframe_of_badChecksum (ha.inLen_le rfl hl) (hread.trans hd)⟩
    · rw [ha.params] at hq
      exact ⟨.output [] _ _ .outOverflow, trivial, rfl,
        exec_deframe_of_overflow (ha.inLen_le rfl hl) (hread.trans hd) hq⟩
    · rw [ha.params] at hq
      exact ⟨.output q _ _ .ok, trivial, rfl, exec_deframe_of_fits (ha.inLen_le rfl hl) (hread.trans hd) hq⟩

/-- Settles O20: the command has the same effect in both states, and the effect says the code, the results and OUT. -/
theorem commandsReadOnlyTheirOperands : Obligations.CommandsReadOnlyTheirOperands := by
  unfold Obligations.CommandsReadOnlyTheirOperands
  intro i s s' t t' hparams hinput hpack hpseudo h h'
  obtain ⟨e, hrow, rfl, he⟩ := exec_effect ⟨hparams, hinput, hpack, hpseudo⟩ h
  rw [he] at h'
  cases h'
  cases e with
  | status c =>
    refine ⟨rfl, fun hi hne => absurd (congrArg errBits (hrow hi)) hne, fun hi hne => ?_⟩
    exact absurd (congrArg errBits (hrow (readsIn_or_u32pack_of_writesOut hi))) hne
  | results r r1 c => exact ⟨rfl, fun _ _ => ⟨rfl, rfl⟩, fun hi _ => by rw [Effect.ofRow, hi] at hrow; cases hrow⟩
  | output w r r1 c => exact ⟨rfl, fun _ _ => ⟨rfl, rfl⟩, fun _ _ => ⟨rfl, fun _ _ => rfl⟩⟩

/-! ## The codes of a command's row (R182) -/

theorem errBits_injective {c c' : ErrCode} (h : errBits c = errBits c') : c = c' := by
  revert h
  cases c <;> cases c' <;> decide

/-- A command ends with a code of its row. -/
theorem exec_code_mem (h : exec i s = .next t) : ∃ c ∈ codesOf i, t.errcode = errBits c := by
  cases i with
  | nop => cases h; exact ⟨.ok, by decide, rfl⟩
  | u32pack => cases h; exact ⟨.ok, by decide, rfl⟩
  | reserved op => cases h; exact ⟨.badOp, List.mem_singleton_self _, rfl⟩
  | crc32 => rcases execCrc32_cases h with ⟨-, rfl⟩ | ⟨-, rfl⟩ <;> exact ⟨_, by decide, complete_errcode _ _⟩
  | netsum => rcases execNetsum_cases h with ⟨-, rfl⟩ | ⟨-, rfl⟩ <;> exact ⟨_, by decide, complete_errcode _ _⟩
  | netsumPh => rcases execNetsumPh_cases h with ⟨-, rfl⟩ | ⟨-, rfl⟩ <;> exact ⟨_, by decide, complete_errcode _ _⟩
  | u32unpack =>
    rcases execU32unpack_cases h with ⟨-, rfl⟩ | ⟨-, -, rfl⟩ | ⟨-, -, rfl⟩ <;>
      exact ⟨_, by decide, complete_errcode _ _⟩
  | frame =>
    rcases execFrame_cases h with ⟨-, rfl⟩ | ⟨-, -, rfl⟩ | ⟨-, -, rfl⟩ <;> exact ⟨_, by decide, complete_errcode _ _⟩
  | deframe =>
    rcases execDeframe_cases h with ⟨-, rfl⟩ | ⟨-, -, rfl⟩ | ⟨cc, rc, -, -, rfl⟩ | ⟨p, cc, -, -, -, rfl⟩ |
      ⟨p, cc, -, -, -, rfl⟩ <;> exact ⟨_, by decide, complete_errcode _ _⟩

/-- Some state with legal parameters has the command end with the code. -/
def Reaches (i : Instr) (c : ErrCode) : Prop :=
  ∃ s t : State, s.params.wf = true ∧ exec i s = .next t ∧ t.errcode = errBits c

/-- The unit at reset with a string in IN and its length in IN_LEN. -/
def holding (p : Params) (w : List Byte) : State :=
  { State.resetWith p with inLen := BitVec.ofNat 16 w.length, inBuf := memOfBytes 0 w }

theorem holding_params (p : Params) (w : List Byte) : (holding p w).params = p := rfl

theorem holding_inLen (hw : w.length < 65536) : (holding p w).inLen.toNat = w.length := by
  rw [holding, BitVec.toNat_ofNat, Nat.mod_eq_of_lt hw]

theorem inString_holding (hw : w.length < 65536) : inString (holding p w) = w := by
  refine List.ext_getElem (by rw [inString_length, holding_inLen hw]) fun k h1 h2 => ?_
  simp [inString, inBytes, inByte, holding, memRead_memOfBytes, h2]

/-- The default parameters with the least OUT_CAP. -/
def leastOut : Params := { Params.default with outCap := 6 }

theorem leastOut_wf : leastOut.wf = true := by decide

theorem default_wf : Params.default.wf = true := by decide

theorem reaches_lenRange (hr : readsIn i = true) : Reaches i .lenRange :=
  ⟨{ State.reset with inLen := 4097#16 }, _, default_wf, exec_of_lenRange hr (by decide), rfl⟩

theorem reaches_frame (hp : p.wf = true) (hw : w.length ≤ p.inCap) :
    Reaches .frame (if p.outCap < (frame p w).length then .outOverflow else .ok) := by
  obtain ⟨-, hcap, -, -⟩ := wf_caps hp
  obtain ⟨-, -, t, ht, hcode⟩ := errorPrecedence (holding p w)
  rw [holding_inLen (by omega), inString_holding (by omega), holding_params, if_neg (Nat.not_lt.mpr hw)] at hcode
  exact ⟨holding p w, t, (holding_params p w).symm ▸ hp, ht, hcode⟩

theorem reaches_deframe (hp : p.wf = true) (hw : w.length ≤ p.inCap) :
    Reaches .deframe (deframeCode p.outCap (deframe p w)) := by
  obtain ⟨-, hcap, -, -⟩ := wf_caps hp
  obtain ⟨t, ht, hcode⟩ := exec_deframe_errcode (holding p w)
  rw [holding_inLen (by omega), inString_holding (by omega), holding_params, if_neg (Nat.not_lt.mpr hw)] at hcode
  exact ⟨holding p w, t, (holding_params p w).symm ▸ hp, ht, hcode⟩

/-- The digits of a string, substituted, are read as that string, whatever its trailer. -/
theorem deframe_digits (hp : p.wf = true) (t : List Byte) :
    deframe p (subst p (toRadix p t) ++ [delimiter]) = checkTrailer t :=
  deframeWith_body hp (codecOf_lawful hp) (stripReserved_subst hp (toRadix_lt hp t))

/-- FRAME of one byte overflows the least OUT, of none it does not. -/
theorem reaches_frame_of_mem (h : c ∈ codesOf .frame) : Reaches .frame c := by
  simp only [codesOf, List.mem_cons, List.not_mem_nil, or_false] at h
  rcases h with rfl | rfl | rfl
  · have hlen : (frame leastOut []).length = 6 := frame_length_of_short rfl rfl (Nat.zero_le _)
    have h := reaches_frame leastOut_wf (w := []) (Nat.zero_le _)
    rwa [hlen, if_neg (by decide)] at h
  · exact reaches_lenRange rfl
  · have hlen : (frame leastOut [0#8]).length = 7 := frame_length_of_short rfl rfl (by decide)
    have h := reaches_frame leastOut_wf (w := [0#8]) (by decide)
    rwa [hlen, if_pos (by decide)] at h

/-- The frame of a payload that fits OUT or does not, a body that carries a wrong trailer, and the empty string. -/
theorem reaches_deframe_of_mem (h : c ∈ codesOf .deframe) : Reaches .deframe c := by
  have frames {payload : List Byte} (hlen : payload.length ≤ 303) :
      Reaches .deframe (if 6 < payload.length then .outOverflow else .ok) := by
    have hwire : (frame leastOut payload).length = payload.length + 6 := frame_length_of_short rfl rfl hlen
    have hcap : 309 ≤ leastOut.inCap := by decide
    have h := reaches_deframe leastOut_wf (w := frame leastOut payload) (by omega)
    rwa [(frameRoundTrip leastOut leastOut_wf payload).1] at h
  simp only [codesOf, List.mem_cons, List.not_mem_nil, or_false] at h
  rcases h with rfl | rfl | rfl | rfl | rfl
  · exact frames (payload := []) (Nat.zero_le _)
  · have h := reaches_deframe leastOut_wf (w := []) (Nat.zero_le _)
    rwa [deframe_of_no_delimiter (by simp)] at h
  · have hbad : checkTrailer [0#8, 0#8, 0#8, 1#8] = .badChecksum 0#32 1#32 := by decide
    have h := reaches_deframe leastOut_wf
      (w := subst leastOut (toRadix leastOut [0#8, 0#8, 0#8, 1#8]) ++ [delimiter]) (by decide +kernel)
    rwa [deframe_digits leastOut_wf, hbad] at h
  · exact reaches_lenRange rfl
  · have h := frames (payload := List.replicate 7 0#8) (by decide)
    rwa [if_pos (by decide)] at h

/-- Every code of a command's row is reached. -/
theorem reaches_of_mem (h : c ∈ codesOf i) : Reaches i c := by
  have ok_or_lenRange (hr : readsIn i = true) (hok : Reaches i .ok) (h : c ∈ [.ok, .lenRange]) : Reaches i c := by
    simp only [List.mem_cons, List.not_mem_nil, or_false] at h
    rcases h with rfl | rfl
    · exact hok
    · exact reaches_lenRange hr
  cases i with
  | nop | u32pack => exact List.mem_singleton.mp h ▸ ⟨State.reset, _, default_wf, rfl, rfl⟩
  | reserved op => exact List.mem_singleton.mp h ▸ ⟨State.reset, _, default_wf, rfl, rfl⟩
  | crc32 =>
    obtain ⟨t, ht, hdone, -⟩ := (crc32Command.2 State.reset).1 (Nat.zero_le _)
    exact ok_or_lenRange rfl ⟨_, t, default_wf, ht, hdone.code⟩ h
  | netsum =>
    obtain ⟨t, ht, hdone, -⟩ := (netsumCommand.2 State.reset).1 (Nat.zero_le _)
    exact ok_or_lenRange rfl ⟨_, t, default_wf, ht, hdone.code⟩ h
  | netsumPh =>
    obtain ⟨t, ht, hdone, -⟩ := (netsumPhCommand.2 State.reset).1 (Nat.zero_le _)
    exact ok_or_lenRange rfl ⟨_, t, default_wf, ht, hdone.code⟩ h
  | u32unpack =>
    simp only [codesOf, List.mem_cons, List.not_mem_nil, or_false] at h
    rcases h with rfl | rfl | rfl
    · exact ⟨{ State.reset with inLen := 4#16 }, _, default_wf, exec_u32unpack_of_four_le (by decide) (by decide), rfl⟩
    · exact ⟨State.reset, _, default_wf, exec_u32unpack_of_short (by decide) (by decide), rfl⟩
    · exact reaches_lenRange rfl
  | frame => exact reaches_frame_of_mem h
  | deframe => exact reaches_deframe_of_mem h

/-- Settles O19: the row by all each command can do, and each of its codes by a state that reaches it. -/
theorem commandCodesExactly : Obligations.CommandCodesExactly := by
  unfold Obligations.CommandCodesExactly
  intro i c
  refine ⟨reaches_of_mem, ?_⟩
  rintro ⟨s, t, -, h, hc⟩
  obtain ⟨c', hmem, hc'⟩ := exec_code_mem h
  rwa [errBits_injective (hc.symm.trans hc')]

end Sys2Proof.Machine
end
